-- ==== Sys2Proof/Word.lean ====
section
/-! DEFINITION. The data types of the block: words, the state array's type, the formats of the host
interface (spec/00_scope.md R5 to R7, R12, R14; spec/30_encoding.md R55, R60).

All arithmetic is `BitVec` arithmetic, which is unsigned arithmetic modulo 2^64 on a `Word` (R15): `+` and
`*` wrap, `^^^`, `&&&`, `|||` are bitwise, `>>>` by a `Nat` is the logical right shift, `<<<` drops the bits
shifted past bit 63. Bit 0 is the least significant bit (R14). -/

namespace Sys2Proof

/-- R7: every state word, seed, secondary seed and output is an unsigned 64-bit word. -/
abbrev Word := BitVec 64

/-- R5: `N`, the number of words in the state array. -/
abbrev N : Nat := 312

/-- R6: `M`, the twist offset. -/
abbrev M : Nat := 156

/-- R20: the state array `S`, an ordered sequence of `N` = 312 words whose length never changes. -/
abbrev StateArray := Vector Word 312

/-- R12, R23: the 9-bit cursor. -/
abbrev Cursor := BitVec 9

/-- R27: the 8-bit status byte. -/
abbrev StatusByte := BitVec 8

/-- R55: a command is one 136-bit word. -/
abbrev CommandWord := BitVec 136

/-- R60: a response is one 72-bit word. -/
abbrev ResponseWord := BitVec 72

end Sys2Proof
end

