-- ==== Sys2Proof/Syntax.lean ====
section
/-! DEFINITION. The commands of the block and the lines of its assembly notation
(spec/30_encoding.md R56 to R58, R64 to R66; spec/opcode_table.json). -/

namespace Sys2Proof

/-- The two commands a host can issue (R56). `REGEN` has no encoding (R62) and is no constructor: it is the
operation `Machine.regenWith`, run inside `NEXT`. -/
inductive Instr where
  /-- `INIT seed, y` (R57, R70). -/
  | init (seed y : Word)
  /-- `NEXT`, which has no operands (R58, R100). -/
  | next
deriving DecidableEq, Repr

/-- A line of assembly (R64 to R66). Literals are unbounded here; `AsmLine.wf` checks their range. -/
inductive AsmLine where
  /-- `INIT <seed>, <y>` (R64). -/
  | init (seed y : Nat)
  /-- The pseudo-instruction `INIT <seed>` (R65). -/
  | initSeed (seed : Nat)
  /-- `NEXT` (R64). -/
  | next
  /-- The pseudo-instruction `NEXT*<k>` (R66). -/
  | nextTimes (k : Nat)
  /-- `.raw <34 hex digits>`, the leftmost digit first (R64). -/
  | raw (digits : List (BitVec 4))
deriving DecidableEq, Repr

end Sys2Proof
end

