-- ==== Sys2Proof/WellFormed.lean ====
section
/-! DEFINITION. Which commands and which assembly lines are well formed (spec/30_encoding.md R57, R58,
R64 to R66). -/

namespace Sys2Proof

/-- "every value of `A` and `B` is legal" (R57), and `NEXT` has no operands (R58): the operand types admit
exactly the legal commands, so no command is ill formed. -/
def Instr.wf : Instr → Bool
  | .init _ _ => true
  | .next => true

/-- R64: a literal must lie in [0, 2^64-1]; it is refused, not reduced, outside that range. -/
def literalFits (n : Nat) : Bool := decide (n < 2 ^ 64)

/-- Which lines an assembler accepts: literals in range (R64), a count of at least 1 (R66), exactly 34
digits after `.raw` (R64). -/
def AsmLine.wf : AsmLine → Bool
  | .init seed y => literalFits seed && literalFits y
  | .initSeed seed => literalFits seed
  | .next => true
  | .nextTimes k => decide (1 ≤ k)
  | .raw digits => decide (digits.length = 34)

end Sys2Proof
end

