-- ==== Sys2Proof/Decode.lean ====
section
/-! DEFINITION. Decoding and encoding of commands (spec/30_encoding.md R55 to R59, R61;
spec/opcode_table.json).

The block takes whole 136-bit words and has no byte view (spec/20_memory.md R42), so the decoder's input is
a word, not bytes. -/

namespace Sys2Proof

/-- What a command word decodes to: a command, or the named rejection of its reserved opcode (R59). -/
inductive Decoded where
  | command (i : Instr)
  | reservedOpcode (op : BitVec 8)
deriving DecidableEq, Repr

/-- R55: the field `OP`, bits 135:128. -/
def opField (w : CommandWord) : BitVec 8 := w.extractLsb' 128 8

/-- R55: the field `A`, bits 127:64. -/
def aField (w : CommandWord) : Word := w.extractLsb' 64 64

/-- R55: the field `B`, bits 63:0. -/
def bField (w : CommandWord) : Word := w.extractLsb' 0 64

/-- R56: the opcode of `INIT`. -/
def opInit : BitVec 8 := 0x01#8

/-- R56: the opcode of `NEXT`. -/
def opNext : BitVec 8 := 0x02#8

/-- R56 to R59: the command is selected from `OP` alone; `INIT` takes `A` and `B` whole, `NEXT` ignores
them, and every other opcode is illegal. -/
def decode (w : CommandWord) : Decoded :=
  if opField w = opInit then .command (.init (aField w) (bField w))
  else if opField w = opNext then .command .next
  else .reservedOpcode (opField w)

/-- R55: the word with the given fields, `OP` most significant. -/
def commandWord (op : BitVec 8) (a b : Word) : CommandWord := (op ++ a ++ b).cast rfl

/-- R64: the word an assembler writes for a command; the operand fields of `NEXT` are zeros. -/
def encode : Instr → CommandWord
  | .init seed y => commandWord opInit seed y
  | .next => commandWord opNext 0 0

/-- The `mask` column of spec/opcode_table.json. -/
def tableMask : Instr → CommandWord
  | .init _ _ => 0xff00000000000000000000000000000000#136
  | .next => 0xff00000000000000000000000000000000#136

/-- The `match` column of spec/opcode_table.json. -/
def tableMatch : Instr → CommandWord
  | .init _ _ => 0x0100000000000000000000000000000000#136
  | .next => 0x0200000000000000000000000000000000#136

/-- The command word of a table entry: its `nbits` bits, and zeros above them up to bit 135. A command is one
word (R55, R61), so the table's bit numbering is the word's own. -/
def tableWord (nbits w : Nat) : CommandWord := BitVec.ofNat 136 (w % 2 ^ nbits)

/-- The command the decoder reads from an instruction whose bits are `w`, numbered as
spec/opcode_table.json numbers them. -/
def decodeTableWord (nbits w : Nat) : Option Instr :=
  match decode (tableWord nbits w) with
  | .command i => some i
  | .reservedOpcode _ => none

end Sys2Proof
end

