-- ==== Sys2Proof/Config.lean ====
section
/-! DEFINITION. What an implementation fixes, and the free values (spec/00_scope.md R13;
spec/92_eei_decisions.md, "Open parameters"; spec/93_implementation_defined.md I3, I4, I12).

The hardwired constants of R8 to R11 stand beside the operations that use them, in `Machine/Init.lean`,
`Machine/Regen.lean` and `Machine/Next.lean`. An `opaque` constant has no body: nothing can be proved about
which value it has. -/

namespace Sys2Proof

/-- R13: the two readings of the `b` operand of `REGEN`'s final step (spec/90_conflicts.md C1). -/
inductive WrapBSource where
  /-- `SELF`, the reading of §4.2: `b` is `S[N-1]` itself. -/
  | self
  /-- `STATE0`, the reading of §9: `b` is `S[0]` as pass 1 left it. -/
  | state0
deriving DecidableEq, Repr

/-- R13, C1, D3: the default of `WRAP_B_SOURCE`. The value a block has is `Machine.State.wrapBSource`. -/
def Config.defaultWrapBSource : WrapBSource := .self

/-- A free value: what `S` holds after an event that leaves its contents unspecified (R135, R121). The
argument is a draw number, so that two events of one block need not leave the same words; equal numbers give
equal words, in one block or in two (log entry 4). -/
opaque Config.freeStateArray : Nat → StateArray

/-- A free value: what `cursor` holds after an event that leaves its contents unspecified (R135, R121). The
argument is a draw number, as above. -/
opaque Config.freeCursor : Nat → Cursor

/-- `HOST_BINDING` (R45, D13): where, if anywhere, a host maps the block. An open parameter that no rule
reads. -/
opaque Config.hostBinding : Option Nat

/-- `CMD_LATENCY` (R144, D22): the finite time a command takes. An open parameter that no rule reads. -/
opaque Config.cmdLatency : Nat

end Sys2Proof
end

