-- ==== Sys2Proof/Machine/Parameters.lean ====
section
/-! DEFINITION. The parameter value a block is built with when nothing else is said (spec/00_scope.md R13). -/

namespace Sys2Proof.Machine

/-- R13, D3: the value of `WRAP_B_SOURCE` in `State.reset`, the spec's default. It is a definition of its own,
so that a reference run of the original code can settle it (C1). Unsafe from output 311 on, for claims about
runs from `State.reset` alone (log entry 6). -/
def wrapBDefault : WrapBSource := Config.defaultWrapBSource

end Sys2Proof.Machine
end

