-- ==== Sys2Proof/Machine/State.lean ====
section
/-! DEFINITION. The state of the block and of its host interface, and the state after reset
(spec/10_state.md R20 to R36; spec/30_encoding.md R60, R63; spec/70_reset_and_hazards.md R135, R138).

The block has no program counter, no memory besides `S` and no privilege level (R25, R31, R40, R127). Its
sequencing is the order in which the host acts on it, so what the host does is an input, held as plain
data in `inputs`. The transient `carry` and `i` of `REGEN` are no state (R32): they are locals of
`regenWith`. -/

namespace Sys2Proof.Machine

/-- R116: the fault causes, which are all the values `STATUS.CAUSE` can hold. -/
inductive Cause where
  /-- 0: no fault. -/
  | none
  /-- 1, `ILLEGAL_COMMAND`: the opcode is reserved (R119). -/
  | illegalCommand
  /-- 2, `NOT_INITIALIZED`: a `NEXT` while `VALID` = 0 (R120). -/
  | notInitialized
  /-- 3, `INVARIANT_VIOLATION`: an index into `S` outside [0, N-1] (R121). -/
  | invariantViolation
deriving DecidableEq, Repr

/-- R60: a response. `data` is `none` where the block defines no data word: after a fault, and while
halted. -/
structure Response where
  status : StatusByte
  data : Option Word
deriving DecidableEq, Repr

/-- What the host does to the block. -/
inductive HostEvent where
  /-- The host offers a command word (R63). -/
  | command (w : CommandWord)
  /-- The host takes the response that the block presents (R63). -/
  | takeResponse
  /-- The host resets the block between commands; power loss is the same event (R133, R135). -/
  | reset
  /-- The host offers a command word and resets the block while the command is being performed (R138). -/
  | resetDuring (w : CommandWord)
deriving DecidableEq, Repr

/-- The state of the block (`S` to `cause`) and of its host interface (`response`, `inputs`), the block's
parameter (`wrapBSource`), and the model's own counter of free values (`freeDraws`). `STATUS` is the view
`State.status` of `valid`, `fault` and `cause`: its bits 7:4 are hardwired and have no storage (R27). -/
structure State where
  /-- R20: the state array. -/
  S : StateArray
  /-- R23: the index of the word the next `NEXT` reads; `N` means that the array is exhausted. -/
  cursor : Cursor
  /-- R27, R28: `STATUS.VALID`. -/
  valid : Bool
  /-- R27, R29: `STATUS.FAULT`. -/
  fault : Bool
  /-- R27, R29: `STATUS.CAUSE`. -/
  cause : Cause
  /-- R60, R63: the response the block presents and the host has not taken yet. -/
  response : Option Response
  /-- R63, R135: what the host does from here on, the earliest event first. -/
  inputs : List HostEvent
  /-- R13, R26: the parameter `WRAP_B_SOURCE`, fixed for the life of the block: no step writes it. It stands
  here because a step takes no argument but the state (DESIGN CHOICE, log entry 6). -/
  wrapBSource : WrapBSource
  /-- The model's own: how many times free contents have been drawn for `S` and `cursor`. It alone selects the
  contents a draw gives (DESIGN CHOICE, unsafe for a claim that compares two draws, log entry 4). -/
  freeDraws : Nat
deriving DecidableEq, Repr

/-- A reason for which the machine would stop with a fault of the model. There is none: every fault the
spec describes is taken as a next state with `FAULT` = 1 (R117), in which the block still answers commands
(R118). DEDUCED (log entry 16). Safe: nothing is left out by having no constructor here. -/
inductive Fault where
deriving DecidableEq, Repr

/-- Why the model has no step. -/
inductive Refusal where
  /-- Raised by an arm of `exec` for a command without a meaning yet; safe. No arm raises it. -/
  | notModelled (mnemonic : String)
  /-- Raised by `acceptWord`: the host offers a command while a response stands untaken. "A host that breaks
  this is outside the contract ..., and a model has no step for it" (R63, D19). Safe: no claim about
  such a run can be proved. -/
  | handshakeBroken
deriving DecidableEq, Repr

/-- The block right after reset (R35, R135): `VALID`, `FAULT` and `CAUSE` are 0, no response stands, the host
has offered nothing. The spec gives `S` and `cursor` no value at reset; DESIGN CHOICE, unsafe: they are zero
(log entries 1 and 2). `WRAP_B_SOURCE` has its default (R13). The counter starts at 0, DESIGN CHOICE (log entry 4). -/
def State.reset : State where
  S := Vector.replicate 312 0
  cursor := 0
  valid := false
  fault := false
  cause := .none
  response := none
  inputs := []
  wrapBSource := wrapBDefault
  freeDraws := 0

end Sys2Proof.Machine
end

