-- ==== Sys2Proof/Machine/Flags.lean ====
section
/-! DEFINITION. The status byte and the response word, computed from the fields that State stores
(spec/10_state.md R27; spec/30_encoding.md R60; spec/60_exceptions.md R116, R117). The block has no other
flags (R30). -/

namespace Sys2Proof.Machine

/-- R116: the 2-bit code of a cause. -/
def Cause.code : Cause → BitVec 2
  | .none => 0
  | .illegalCommand => 1
  | .notInitialized => 2
  | .invariantViolation => 3

/-- R27, R117: the byte with 0 in bits 7:4, `CAUSE` in 3:2, `FAULT` in 1 and `VALID` in 0. -/
def statusByte (cause : Cause) (fault valid : Bool) : StatusByte :=
  (0#4 ++ cause.code ++ BitVec.ofBool fault ++ BitVec.ofBool valid).cast rfl

/-- R27: `STATUS`, as every response carries it. -/
def State.status (s : State) : StatusByte := statusByte s.cause s.fault s.valid

/-- R60: the response word `RSP72`, `STATUS` most significant. `driven` stands for the bits an
implementation drives where the block defines no data word (I5). -/
def Response.word (r : Response) (driven : Word) : ResponseWord :=
  (r.status ++ r.data.getD driven).cast rfl

end Sys2Proof.Machine
end

