-- ==== Sys2Proof/Machine/Ops.lean ====
section
/-! DEFINITION. The operations the commands share: responding, the halted state, taking a fault, and reset,
which is the only way out of a fault (spec/00_scope.md R16; spec/60_exceptions.md R117, R118, R121 to R124;
spec/70_reset_and_hazards.md R135, R138). -/

namespace Sys2Proof.Machine

/-- R16, R60: `respond(STATUS, data)`, with `STATUS` as it stands after the command's state changes. -/
def State.respond (data : Option Word) (s : State) : State :=
  { s with response := some ⟨s.status, data⟩ }

/-- R117: `raise Fault(c)` sets `FAULT` and `CAUSE` and changes nothing else. It saves no program counter,
enters no handler and changes no mode: the block has none of them (R123). -/
def raiseFault (c : Cause) (s : State) : State :=
  { s with fault := true, cause := c }

/-- R117: taking a fault: raise it, then answer without a data word. -/
def takeFault (c : Cause) (s : State) : State :=
  (raiseFault c s).respond none

/-- The contents of `S` and `cursor` become unspecified: each is a free value from here on (I3, I4; log
entries 3 to 5). DESIGN CHOICE: the value is selected by the draw count alone, so two blocks with equal counts
draw equal contents, whatever they held. The spec says of two blocks only that they share no state (R53);
unsafe for a claim that compares two draws (log entry 4). -/
def forgetStorage (s : State) : State :=
  { s with
    S := Config.freeStateArray s.freeDraws
    cursor := Config.freeCursor s.freeDraws
    freeDraws := s.freeDraws + 1 }

/-- R121, R123: a failed index check is fatal, never a value; it is imprecise, since `S` and `cursor` are
unspecified after it. DEDUCED (log entry 5); safe, but for a claim that compares two draws (log entry 4). -/
def takeInvariantViolation (s : State) : State :=
  takeFault .invariantViolation (forgetStorage s)

/-- R118: while `FAULT` = 1 the block performs no command and answers with the unchanged `STATUS`;
otherwise it performs the command. -/
def unlessHalted (perform : State → State) (s : State) : State :=
  if s.fault then s.respond none else perform s

/-- R135, R138: reset clears `VALID`, `FAULT` and `CAUSE`, leaves the contents of `S` and `cursor`
unspecified, and makes the block idle, so that no response stands. It is the only exit from the halted
state (R124). DESIGN CHOICE: the contents are free values (log entry 3); safe, but for a claim that compares
two draws (log entry 4). DEDUCED, unsafe: a response that stands is dropped (log entry 10). -/
def resetBlock (s : State) : State :=
  { forgetStorage s with valid := false, fault := false, cause := .none, response := none }

end Sys2Proof.Machine
end

