-- ==== Sys2Proof/Machine/Init.lean ====
section
/-! DEFINITION. `INIT`, the state-array init engine (spec/40_init.md R70 to R78; spec/00_scope.md R8). -/

namespace Sys2Proof.Machine

/-- R8: the seed-mixing multiplier `MULT`. -/
def mult : Word := 6364136223846793005

/-- R72: one step of the recurrence, `((x xor (x >> 62)) * MULT) + i`, modulo 2^64. -/
def seedStep (i : Nat) (x : Word) : Word :=
  (x ^^^ (x >>> 62)) * mult + BitVec.ofNat 64 i

/-- The `n` words from index `i` upwards, `x` being the one at `i` and `f j` giving the one at `j` from the one
before it. -/
def wordsFrom (f : Nat → Word → Word) : (n i : Nat) → Word → List Word
  | 0, _, _ => []
  | n + 1, i, x => x :: wordsFrom f n (i + 1) (f (i + 1) x)

@[simp] theorem wordsFrom_length (f : Nat → Word → Word) (n i : Nat) (x : Word) :
    (wordsFrom f n i x).length = n := by
  induction n generalizing i x with
  | zero => rfl
  | succ n ih => simp [wordsFrom, ih]

/-- R71, R72: the array whose word 0 is `x` and whose words 1 to N-1 follow by the recurrence. -/
def seedArray (x : Word) : StateArray := ⟨⟨wordsFrom seedStep N 0 x⟩, by simp⟩

/-- R70 past its first line: every word of `S` and the cursor are written, then `VALID`, then the block
responds with data 0. `REGEN` does not run (R73). -/
def initialise (seed y : Word) (s : State) : State :=
  State.respond (some 0)
    { s with S := seedArray (seed ^^^ y), cursor := 312, valid := true }

/-- R70: `INIT seed, y`. -/
def execInit (seed y : Word) (s : State) : Host.Outcome State Fault Refusal :=
  .next (unlessHalted (initialise seed y) s)

end Sys2Proof.Machine
end

