-- ==== Sys2Proof/Machine/Operands.lean ====
section
/-! DEFINITION. The storage access primitives `S[i]` and `S[i] <- v` with their index check, and the counted
loop of the pseudocode (spec/00_scope.md R16; spec/20_memory.md R41, R44; spec/60_exceptions.md R121).

These two are the only access to `S` that `REGEN` and `NEXT` make. `INIT` replaces all of `S` at once. -/

namespace Sys2Proof.Machine

/-- R41: `S[i]`, the whole word at index `i`; `none` if the index check fails. -/
def readWord (S : StateArray) (i : Nat) : Option Word := S[i]?

/-- R41: `S[i] <- v`, which writes the whole word at index `i`; `none` if the index check fails. -/
def writeWord (S : StateArray) (i : Nat) (v : Word) : Option StateArray :=
  if h : i < 312 then some (S.set i v h) else none

/-- `n` rounds of a loop body from index `i` upwards, stopping at the first failed index check. -/
def loopFrom {σ : Type} (body : Nat → σ → Option σ) : (i n : Nat) → σ → Option σ
  | _, 0, t => some t
  | i, n + 1, t => (body i t).bind (loopFrom body (i + 1) n)

/-- The pseudocode's "for i = lo to hi", both bounds inclusive. -/
def forTo {σ : Type} (lo hi : Nat) (body : Nat → σ → Option σ) (t : σ) : Option σ :=
  loopFrom body lo (hi + 1 - lo) t

end Sys2Proof.Machine
end

