-- ==== Sys2Proof/Machine/Regen.lean ====
section
/-! DEFINITION. `REGEN`, the twist-regenerator, which runs inside `NEXT` (spec/41_regen.md R80 to R93;
spec/00_scope.md R9, R10, R13). -/

namespace Sys2Proof.Machine

/-- R9: bits 63..31. -/
def upperMask : Word := 0xffffffff80000000

/-- R9: bits 30..0. -/
def lowerMask : Word := 0x000000007fffffff

/-- R10: the matrix constant of `mix`. -/
def matrixA : Word := 0xb5026f5aa96619e9

/-- R80: the high 33 bits of `a` with the low 31 bits of `b`. -/
def combine (a b : Word) : Word := (a &&& upperMask) ||| (b &&& lowerMask)

/-- R80: `mix(a, b)`. -/
def mix (a b : Word) : Word :=
  (combine a b >>> 1) ^^^ ((combine a b &&& 1) * matrixA)

/-- R32: what `REGEN` holds from one step to the next: the array as written so far, and the carry. -/
structure Twist where
  S : StateArray
  carry : Word
deriving DecidableEq, Repr

/-- R83: one step of either pass: `b <- S[i+1]; S[i] <- S[from] xor mix(carry, b); carry <- b`. -/
def twistStep (feedback i : Nat) (t : Twist) : Option Twist := do
  let b ← readWord t.S (i + 1)
  let f ← readWord t.S feedback
  let S' ← writeWord t.S i (f ^^^ mix t.carry b)
  return ⟨S', b⟩

/-- R84: a step of pass 1, whose feedback word is `S[i+M]`. -/
def pass1Step (i : Nat) (t : Twist) : Option Twist := twistStep (i + M) i t

/-- R86: a step of pass 2, whose feedback word is `S[i-M]`; pass 2 starts at `i` = `M`. -/
def pass2Step (i : Nat) (t : Twist) : Option Twist := twistStep (i - M) i t

/-- R88: the `b` operand of the final step. -/
def wrapOperand (src : WrapBSource) (S : StateArray) : Option Word :=
  match src with
  | .self => readWord S (N - 1)
  | .state0 => readWord S 0

/-- R88: the final step, i = N-1. -/
def finalStep (src : WrapBSource) (t : Twist) : Option StateArray := do
  let b ← wrapOperand src t.S
  let f ← readWord t.S (N - 1 - M)
  writeWord t.S (N - 1) (f ^^^ mix t.carry b)

/-- R83 on the array: both passes and the final step, in place; `none` if an index check fails. -/
def regenWith (src : WrapBSource) (S : StateArray) : Option StateArray := do
  let carry ← readWord S 0
  let t ← forTo 0 (M - 1) pass1Step ⟨S, carry⟩
  let t ← forTo M (N - 2) pass2Step t
  finalStep src t

/-- R83, R89: `REGEN` on the state, under the block's own `WRAP_B_SOURCE`: the array is refilled and the cursor
becomes 0. -/
def regen (s : State) : Option State :=
  (regenWith s.wrapBSource s.S).map fun S' => { s with S := S', cursor := 0 }

/-- R91: one step of the modulo-indexed loop. -/
def moduloStep (i : Nat) (S : StateArray) : Option StateArray := do
  let a ← readWord S i
  let b ← readWord S ((i + 1) % N)
  let f ← readWord S ((i + M) % N)
  writeWord S i (f ^^^ mix a b)

/-- R91: the modulo-indexed in-place loop, which the spec compares with `REGEN`. No command runs it. -/
def regenModulo (S : StateArray) : Option StateArray := forTo 0 (N - 1) moduloStep S

end Sys2Proof.Machine
end

