-- ==== Sys2Proof/Machine/Next.lean ====
section
/-! DEFINITION. `NEXT`, the tempering output pipeline (spec/42_next.md R100 to R112; spec/00_scope.md
R11). -/

namespace Sys2Proof.Machine

/-- R11, R104: step T1. -/
def temper1 (r : Word) : Word := r ^^^ ((r >>> 29) &&& 0x5555555555555555)

/-- R11, R104: step T2. -/
def temper2 (r : Word) : Word := r ^^^ ((r <<< 17) &&& 0x71d67fffeda60000)

/-- R11, R104: step T3. -/
def temper3 (r : Word) : Word := r ^^^ ((r <<< 37) &&& 0xfff7eee000000000)

/-- R11, R104: step T4. -/
def temper4 (r : Word) : Word := r ^^^ (r >>> 43)

/-- R104: the four tempering steps in their order. -/
def temper (r : Word) : Word := temper4 (temper3 (temper2 (temper1 r)))

/-- R101: if `cursor` ≥ `N`, run `REGEN`; otherwise nothing. -/
def refill (s : State) : Option State :=
  if N ≤ s.cursor.toNat then regen s else some s

/-- R102 to R107: read `S[cursor]` under its index check, advance the cursor, respond with the tempered
word. -/
def emitWord (s : State) : State :=
  match readWord s.S s.cursor.toNat with
  | some raw => State.respond (some (temper raw)) { s with cursor := s.cursor + 1 }
  | none => takeInvariantViolation s

/-- R100 past its first line. -/
def produceNext (s : State) : State :=
  if s.valid then
    match refill s with
    | some s' => emitWord s'
    | none => takeInvariantViolation s
  else takeFault .notInitialized s

/-- R100: `NEXT`. -/
def execNext (s : State) : Host.Outcome State Fault Refusal :=
  .next (unlessHalted produceNext s)

end Sys2Proof.Machine
end

