-- ==== Sys2Proof/Machine/Dispatch.lean ====
section
/-! DEFINITION. Dispatch: one arm per command, each a direct call of its meaning. -/

namespace Sys2Proof.Machine

def exec (i : Instr) (s : State) : Host.Outcome State Fault Refusal :=
  match i with
  | .init seed y => Sys2Proof.Machine.execInit seed y s
  | .next => Sys2Proof.Machine.execNext s

end Sys2Proof.Machine
end

