-- ==== Sys2Proof/Machine/HostPort.lean ====
section
/-! DEFINITION. The host interface: accepting a command word, and what each host event does
(spec/30_encoding.md R59, R63; spec/60_exceptions.md R118, R119, R122, R133;
spec/70_reset_and_hazards.md R135, R138). -/

namespace Sys2Proof.Machine

/-- R119, R122: a command word with a reserved opcode. A halted block records no new fault. -/
def performIllegal (s : State) : State := unlessHalted (takeFault .illegalCommand) s

/-- R63: perform the whole rule of the command a word stands for. -/
def performWord (w : CommandWord) (s : State) : Host.Outcome State Fault Refusal :=
  match decode w with
  | .command i => exec i s
  | .reservedOpcode _ => .next (performIllegal s)

/-- R63: "The host may not offer a second command until it has taken the response of the first"; for a host
that does, the model has no step (D19; log entry 8). Otherwise the command is accepted. -/
def acceptWord (s : State) (accepted : Host.Outcome State Fault Refusal) :
    Host.Outcome State Fault Refusal :=
  match s.response with
  | some _ => .refused .handshakeBroken
  | none => accepted

/-- R63: the host takes the response. DESIGN CHOICE, unsafe: with none standing, nothing happens (log entry
9). -/
def takeResponse (s : State) : State := { s with response := none }

/-- R133: between host events the block is idle and keeps its state. -/
def idle (s : State) : State := s

/-- What one host event does. A reset during a command abandons it: no response is produced and the reset
state follows (R138). -/
def handleEvent (e : HostEvent) (s : State) : Host.Outcome State Fault Refusal :=
  match e with
  | .command w => acceptWord s (performWord w s)
  | .takeResponse => .next (takeResponse s)
  | .reset => .next (resetBlock s)
  | .resetDuring _ => acceptWord s (.next (resetBlock s))

/-- One atomic step (R17): the earliest host event, or idling when the host does nothing (log entry 7). -/
def nextEvent (s : State) : Host.Outcome State Fault Refusal :=
  match s.inputs with
  | [] => .next (idle s)
  | e :: rest => handleEvent e { s with inputs := rest }

/-- The host offers `w` as its very next act, having taken any response that stands (log entry 21). -/
def offerNow (w : CommandWord) (s : State) : State :=
  { s with response := none, inputs := .command w :: s.inputs }

/-- A host that keeps the handshake of R63: it takes each response before its next command. -/
def hostScript (ws : List CommandWord) : List HostEvent :=
  ws.flatMap fun w => [.command w, .takeResponse]

end Sys2Proof.Machine
end

