-- ==== Sys2Proof/Machine/Step.lean ====
section
/-! DEFINITION. One step of the machine, and how a command word is placed to be the next one it runs
(spec/00_scope.md R17; spec/10_state.md R25; spec/20_memory.md R47, R51). -/

namespace Sys2Proof.Machine

/-- One step: the earliest event of the host, or idling. The block fetches nothing (R25, R51). -/
def step (s : State) : Host.Outcome State Fault Refusal := nextEvent s

/-- `s` with a table entry's command word offered by the host as its very next act. -/
def State.withFetchWord (s : State) (nbits w : Nat) : State := offerNow (tableWord nbits w) s

end Sys2Proof.Machine
end

