-- ==== Sys2Proof/Machine/Assembler.lean ====
section
/-! DEFINITION. The assembly notation (spec/30_encoding.md R64 to R66): from a line to the command words it
stands for, and from text to lines. The notation has no effect on the machine (D17): no step uses this
file.

Text is a list of characters. Where R64 does not say how characters are laid out within a line, log entry
18 names what is accepted. -/

namespace Sys2Proof.Machine

/-- R64: the word written by 34 hexadecimal digits, the leftmost the most significant. -/
def rawWord (digits : List (BitVec 4)) : CommandWord :=
  digits.foldl (fun w d => w <<< 4 ||| d.setWidth 136) 0

/-- R64 to R66: the command words a line stands for. -/
def expandLine : AsmLine → List CommandWord
  | .init seed y => [encode (.init (BitVec.ofNat 64 seed) (BitVec.ofNat 64 y))]
  | .initSeed seed => [encode (.init (BitVec.ofNat 64 seed) 0)]
  | .next => [encode .next]
  | .nextTimes k => List.replicate k (encode .next)
  | .raw digits => [rawWord digits]

/-- R64: an assembler refuses a line that is not well formed. -/
def assembleLine (l : AsmLine) : Option (List CommandWord) :=
  if l.wf then some (expandLine l) else none

/-- The value of a hexadecimal digit, in either case. -/
def hexDigit (c : Char) : Option (BitVec 4) :=
  if '0' ≤ c ∧ c ≤ '9' then some (BitVec.ofNat 4 (c.toNat - '0'.toNat))
  else if 'a' ≤ c ∧ c ≤ 'f' then some (BitVec.ofNat 4 (c.toNat - 'a'.toNat + 10))
  else if 'A' ≤ c ∧ c ≤ 'F' then some (BitVec.ofNat 4 (c.toNat - 'A'.toNat + 10))
  else none

/-- The digits of a nonempty string of hexadecimal digits. -/
def hexDigits (cs : List Char) : Option (List (BitVec 4)) :=
  if cs.isEmpty then none else cs.mapM hexDigit

/-- A nonempty string of hexadecimal digits as a number. -/
def hexNumber (cs : List Char) : Option Nat :=
  (hexDigits cs).map fun ds => ds.foldl (fun n d => n * 16 + d.toNat) 0

/-- A nonempty string of decimal digits as a number. -/
def decNumber (cs : List Char) : Option Nat :=
  if cs.all Char.isDigit then (hexDigits cs).map fun ds => ds.foldl (fun n d => n * 10 + d.toNat) 0
  else none

/-- R64: a literal is decimal, or hexadecimal with a `0x` prefix. -/
def literal : List Char → Option Nat
  | '0' :: 'x' :: cs => hexNumber cs
  | cs => decNumber cs

/-- A space, a tab or a carriage return. -/
def isBlank (c : Char) : Bool := c == ' ' || c == '\t' || c == '\r'

/-- A string without the blanks at its two ends. -/
def trimBlanks (cs : List Char) : List Char :=
  ((cs.dropWhile isBlank).reverse.dropWhile isBlank).reverse

/-- The operands of `INIT`: one literal (R65) or two (R64). With none it is an assembler error (R65). -/
def parseInit (operands : List (List Char)) : Option AsmLine :=
  match operands with
  | [a] => (literal a).map .initSeed
  | [a, b] => (literal a).bind fun seed => (literal b).map fun y => .init seed y
  | _ => none

/-- A line by its mnemonic, in capitals, and the rest of the line (R64 to R66). -/
def parseStatement (mnemonic rest : List Char) : Option AsmLine :=
  match mnemonic with
  | ['I', 'N', 'I', 'T'] => parseInit ((rest.splitOn ',').map trimBlanks)
  | ['N', 'E', 'X', 'T'] => if rest.isEmpty then some .next else none
  | 'N' :: 'E' :: 'X' :: 'T' :: '*' :: k => if rest.isEmpty then (decNumber k).map .nextTimes else none
  | ['.', 'R', 'A', 'W'] => (hexDigits rest).map .raw
  | _ => none

/-- R64: a line without its comment; `some none` where nothing is left. Mnemonics are case-insensitive. -/
def parseLine (cs : List Char) : Option (Option AsmLine) :=
  match trimBlanks (cs.takeWhile (· ≠ ';')) with
  | [] => some none
  | body =>
    (parseStatement ((body.takeWhile (!isBlank ·)).map Char.toUpper)
      (trimBlanks (body.dropWhile (!isBlank ·)))).map some

/-- The command words one line of text stands for. -/
def assembleTextLine (cs : List Char) : Option (List CommandWord) :=
  match parseLine cs with
  | none => none
  | some none => some []
  | some (some l) => assembleLine l

/-- R64: a command sequence, one command per line. -/
def assembleText (text : List Char) : Option (List CommandWord) :=
  ((text.splitOn '\n').mapM assembleTextLine).map List.flatten

end Sys2Proof.Machine
end

