-- ==== Sys2Proof/Safety.lean ====
section
/-! DEFINITION. What counts as a legal state, a faulted and a final one, and when two states look the same
to the host: the terms in which the claims are stated (spec/10_state.md R24, R27, R33, R36;
spec/42_next.md R109; spec/60_exceptions.md R118). -/

namespace Sys2Proof.Machine

/-- The invariant of the block and its host interface. -/
structure State.Legal (s : State) : Prop where
  /-- R24: "while `VALID` = 1 the cursor is always in [0, N]". -/
  cursor_le : s.valid = true → s.cursor.toNat ≤ 312
  /-- R27: `CAUSE` is 0 while `FAULT` = 0, and a fault has a cause. -/
  cause_none_iff : s.cause = .none ↔ s.fault = false
  /-- R103, R121: no rule raises `INVARIANT_VIOLATION`. -/
  no_violation : s.cause ≠ .invariantViolation
  /-- R108, R118: after `NOT_INITIALIZED` the block stays without an `INIT` until reset. -/
  not_initialized : s.cause = .notInitialized → s.valid = false
  /-- R60: a standing response carries `STATUS` as it is after the command. -/
  response_status : ∀ r, s.response = some r → r.status = s.status
  /-- R60: a response has no data word exactly if the block has faulted. -/
  response_data : ∀ r, s.response = some r → (r.data = none ↔ s.fault = true)

/-- R118: "A model treats a state with `FAULT` = 1 as faulted". -/
def State.Faulted (s : State) : Prop := s.fault = true

/-- R118: a run has ended well when the host has nothing more to do and the block has not faulted; a faulted
state is "never final". -/
def State.Final (s : State) : Prop := s.inputs = [] ∧ ¬ s.Faulted

/-- R33, R36: two states of blocks with the same `WRAP_B_SOURCE` that agree on all the host sees, and on `S` and
`cursor` once an `INIT` has given them values. -/
structure State.Agrees (s t : State) : Prop where
  valid : s.valid = t.valid
  fault : s.fault = t.fault
  cause : s.cause = t.cause
  response : s.response = t.response
  inputs : s.inputs = t.inputs
  wrapBSource : s.wrapBSource = t.wrapBSource
  S : s.valid = true → s.S = t.S
  cursor : s.valid = true → s.cursor = t.cursor

/-- R33: two outcomes that the host cannot tell apart. -/
def OutcomesAgree : Host.Outcome State Fault Refusal → Host.Outcome State Fault Refusal → Prop
  | .next s, .next t => s.Agrees t
  | .fault a, .fault b => a = b
  | .refused a, .refused b => a = b
  | _, _ => False

/-- R109: `E_0` is the array an `INIT` leaves, and `E_(j+1)` = `REGEN(E_j)`. -/
def epochArray (src : WrapBSource) (S : StateArray) : Nat → Option StateArray
  | 0 => some S
  | j + 1 => (epochArray src S j).bind (regenWith src)

/-- The state after `k` commands `NEXT`, the host taking each response before the next command. -/
def afterNexts : (k : Nat) → State → Host.Outcome State Fault Refusal
  | 0, s => .next s
  | k + 1, s =>
    match exec .next s with
    | .next t => afterNexts k t
    | .fault r => .fault r
    | .refused r => .refused r

end Sys2Proof.Machine
end

