-- ==== Sys2Proof/Certificates/Slice0/Obligations.lean ====
section
/-! DEFINITION. The statements for the provers. "R<n>" is a numbered rule of spec/; "the spec derives" marks an
inference of the spec's own. Where a command's next state is given as an update of the state before it,
that is its frame too: every field the update does not name is unchanged. -/

open Sys2Proof Sys2Proof.Machine

/-! ### Encoding -/

/-- R55 to R58: decoding an encoded command gives it back; the decoder reads exactly the fields `OP`, `A` and
`B`; every `INIT` word is the encoding of its command, and a `NEXT` word is one whatever its operands. -/
def Obligations.DecodeEncodeAgree : Prop :=
  (∀ i : Instr, i.wf = true → decode (encode i) = .command i) ∧
  (∀ (w : CommandWord) (seed y : Word),
    decode w = .command (.init seed y) ↔ w = encode (.init seed y)) ∧
  (∀ w : CommandWord, decode w = .command .next ↔ ∃ a b : Word, w = commandWord 0x02#8 a b) ∧
  (∀ (w : CommandWord) (op : BitVec 8),
    decode w = .reservedOpcode op ↔
      op ≠ 0x01#8 ∧ op ≠ 0x02#8 ∧ ∃ a b : Word, w = commandWord op a b)

/-- R55, R57: `seed` is bits 127:64 and `y` bits 63:0 of the word, with no extension, scaling or shift, and
no value of them is illegal. -/
def Obligations.InitTakesOperandsWhole : Prop :=
  ∀ w : CommandWord, w.extractLsb' 128 8 = 0x01#8 →
    ∃ seed y : Word, decode w = .command (.init seed y) ∧
      (∀ k, k < 64 → seed.getLsbD k = w.getLsbD (64 + k)) ∧
      (∀ k, k < 64 → y.getLsbD k = w.getLsbD k)

/-- R58: words that differ only in `A` and `B` under `NEXT`'s opcode do the same to every state, and an
assembler writes zeros there. -/
def Obligations.NextIgnoresOperandFields : Prop :=
  (∀ (a b a' b' : Word) (s : State),
    decode (commandWord 0x02#8 a b) = .command .next ∧
    performWord (commandWord 0x02#8 a b) s = performWord (commandWord 0x02#8 a' b') s) ∧
  assembleLine .next = some [commandWord 0x02#8 0 0]

/-- The encoding examples the spec derives in R67, from their text to the command they stand for. -/
def Obligations.EncodingExamples : Prop :=
  assembleText "INIT 5489".toList = some [0x0100000000000015710000000000000000#136] ∧
  assembleText "INIT 5, 3".toList = some [0x0100000000000000050000000000000003#136] ∧
  assembleText "INIT 0xffffffffffffffff, 0xffffffffffffffff".toList
    = some [0x01ffffffffffffffffffffffffffffffff#136] ∧
  assembleText "NEXT".toList = some [0x0200000000000000000000000000000000#136] ∧
  assembleText ".raw 0300000000000000000000000000000000".toList
    = some [0x0300000000000000000000000000000000#136] ∧
  decode 0x0100000000000015710000000000000000#136 = .command (.init 5489 0) ∧
  decode 0x0100000000000000050000000000000003#136 = .command (.init 5 3) ∧
  decode 0x01ffffffffffffffffffffffffffffffff#136
    = .command (.init 0xffffffffffffffff 0xffffffffffffffff) ∧
  decode 0x0200000000000000000000000000000000#136 = .command .next ∧
  decode 0x0300000000000000000000000000000000#136 = .reservedOpcode 0x03#8

/-- R64: `INIT <seed>, <y>` is one word that carries both values if both are below 2^64, and is refused, not
reduced, otherwise. -/
def Obligations.AssemblerRefusesWideLiterals : Prop :=
  ∀ seed y : Nat,
    (seed < 2 ^ 64 ∧ y < 2 ^ 64 →
      ∃ (w : CommandWord) (a b : Word), assembleLine (.init seed y) = some [w] ∧
        decode w = .command (.init a b) ∧ a.toNat = seed ∧ b.toNat = y) ∧
    (¬ (seed < 2 ^ 64 ∧ y < 2 ^ 64) → assembleLine (.init seed y) = none)

/-- R65, R66: the two pseudo-instructions; `INIT` with no operand is an assembler error. -/
def Obligations.PseudoInstructionsExpand : Prop :=
  (∀ seed : Nat, assembleLine (.initSeed seed) = assembleLine (.init seed 0)) ∧
  (∀ k : Nat, 1 ≤ k →
    assembleLine (.nextTimes k) = some (List.replicate k 0x0200000000000000000000000000000000#136)) ∧
  assembleLine (.nextTimes 0) = none ∧
  assembleText "INIT".toList = none

/-- R64: `.raw` with 34 digits emits the word whose hexadecimal digits they are, the leftmost digit in bits
135:132. -/
def Obligations.RawLineEmitsItsDigits : Prop :=
  ∀ digits : List (BitVec 4),
    (digits.length = 34 →
      ∃ w : CommandWord, assembleLine (.raw digits) = some [w] ∧
        ∀ (k : Nat) (d : BitVec 4), digits[k]? = some d → w.extractLsb' (4 * (33 - k)) 4 = d) ∧
    (digits.length ≠ 34 → assembleLine (.raw digits) = none)

/-! ### Reset and the status register -/

/-- R35, R135: reset leaves `STATUS` zero in every field. That no response stands (log entry 10, DEDUCED) and that
the host has nothing offered (log entry 7, DESIGN CHOICE) are the model's choice. Nothing is said of `S` and
`cursor`: their reset values are the model's choice (log entries 1 and 2). -/
def Obligations.ResetStateIsUninitialised : Prop :=
  State.reset.valid = false ∧ State.reset.fault = false ∧ State.reset.cause = .none ∧
  State.reset.status = 0x00#8 ∧ State.reset.response = none ∧ State.reset.inputs = []

/-- The state after reset is legal. -/
def Obligations.ResetStateIsLegal : Prop := State.reset.Legal

/-- R27, R116: the layout of `STATUS`, with its hardwired bits, and the cause codes. -/
def Obligations.StatusByteLayout : Prop :=
  ∀ s : State,
    s.status.extractLsb' 4 4 = 0#4 ∧
    (s.cause = .none ↔ s.status.extractLsb' 2 2 = 0#2) ∧
    (s.cause = .illegalCommand ↔ s.status.extractLsb' 2 2 = 1#2) ∧
    (s.cause = .notInitialized ↔ s.status.extractLsb' 2 2 = 2#2) ∧
    (s.cause = .invariantViolation ↔ s.status.extractLsb' 2 2 = 3#2) ∧
    s.status.getLsbD 1 = s.fault ∧
    s.status.getLsbD 0 = s.valid

/-- R60: the response word carries `STATUS` in bits 71:64 and, where there is a data word, that word in bits
63:0, whatever an implementation drives otherwise. -/
def Obligations.ResponseWordLayout : Prop :=
  ∀ (r : Response) (driven : Word),
    (r.word driven).extractLsb' 64 8 = r.status ∧
    (∀ d : Word, r.data = some d → (r.word driven).extractLsb' 0 64 = d)

/-- The status bytes a legal state can show: 0x00, 0x01, 0x06, 0x07 and 0x0a. -/
def Obligations.LegalStatusBytes : Prop :=
  ∀ s : State, s.Legal → s.status ∈ [0x00#8, 0x01#8, 0x06#8, 0x07#8, 0x0a#8]

/-! ### The step -/

/-- A command word the host offers, with no response standing, is decoded and run: the step is `exec` of the
decoded command at the state from which only the offer has been removed. -/
def Obligations.StepRunsDecodedCommand : Prop :=
  ∀ (s : State) (w : CommandWord) (rest : List HostEvent) (i : Instr),
    s.inputs = .command w :: rest → s.response = none → decode w = .command i →
    step s = exec i { s with inputs := rest }

/-- A table word placed by `withFetchWord` is what the very next step runs. -/
def Obligations.PlacedWordRunsNext : Prop :=
  ∀ (s : State) (nbits w : Nat) (i : Instr), decodeTableWord nbits w = some i →
    step (s.withFetchWord nbits w) = exec i { s with response := none }

/-- R133: with nothing from the host the block keeps `S`, `cursor`, `STATUS` and everything else. -/
def Obligations.IdleBlockKeepsItsState : Prop :=
  ∀ s : State, s.inputs = [] → step s = .next s

/-- R63: taking the response makes room for the next command and changes nothing of the block; a command
offered before that gets no step. The model's choice: that a take with no response standing changes nothing
(log entry 9, DESIGN CHOICE), that the offer gets a refusal by name (log entry 8, DESIGN CHOICE), and that an
offer with a reset during the command is refused likewise (log entry 11, DESIGN CHOICE). -/
def Obligations.HandshakeIsKept : Prop :=
  (∀ (s : State) (rest : List HostEvent), s.inputs = .takeResponse :: rest →
    step s = .next { s with inputs := rest, response := none }) ∧
  (∀ (s : State) (w : CommandWord) (rest : List HostEvent) (r : Response),
    s.inputs = .command w :: rest ∨ s.inputs = .resetDuring w :: rest → s.response = some r →
    step s = .refused .handshakeBroken)

/-- Every step answers a next state, but for the broken handshake; in particular no word, no data and no
status stops the machine. -/
def Obligations.StepStopsOnlyOnBrokenHandshake : Prop :=
  ∀ s : State,
    (∃ t, step s = .next t) ∨
    (step s = .refused .handshakeBroken ∧ s.response ≠ none ∧
      ∃ (w : CommandWord) (rest : List HostEvent),
        s.inputs = .command w :: rest ∨ s.inputs = .resetDuring w :: rest)

/-- R135, R138: a reset between commands is always taken and clears `VALID`, `FAULT` and `CAUSE`; a reset during
a command that the block could accept, no response standing, ends in the same state. The model's choice: the
two forms of the event (log entry 11, DESIGN CHOICE), and that a response which stands is dropped (log entry
10, DEDUCED). Nothing is said of `S` and `cursor`, which hold free values (log entry 3). -/
def Obligations.ResetEventClearsStatus : Prop :=
  ∀ (s : State) (rest : List HostEvent),
    (s.inputs = .reset :: rest →
      ∃ t, step s = .next t ∧ t.valid = false ∧ t.fault = false ∧ t.cause = .none ∧
        t.status = 0x00#8 ∧ t.response = none ∧ t.inputs = rest) ∧
    (∀ w : CommandWord, s.inputs = .resetDuring w :: rest → s.response = none →
      step s = step { s with inputs := .reset :: rest })

/-! ### Faults -/

/-- R59, R119, R117, R123: a reserved opcode, whatever the operands and `VALID`, raises `ILLEGAL_COMMAND`:
`FAULT` and `CAUSE` are written, the answer carries the new `STATUS` and no data, and nothing else of the
block changes. -/
def Obligations.IllegalCommandFaults : Prop :=
  ∀ (s : State) (w : CommandWord) (rest : List HostEvent),
    s.inputs = .command w :: rest → s.response = none → s.fault = false →
    w.extractLsb' 128 8 ≠ 0x01#8 → w.extractLsb' 128 8 ≠ 0x02#8 →
    step s = .next
      { s with
        inputs := rest
        fault := true
        cause := .illegalCommand
        response := some ⟨if s.valid then 0x07#8 else 0x06#8, none⟩ }

/-- R108, R120, R117, R123: `NEXT` before any `INIT` raises `NOT_INITIALIZED` and changes nothing else. -/
def Obligations.NextBeforeInitFaults : Prop :=
  ∀ s : State, s.fault = false → s.valid = false →
    exec .next s = .next
      { s with fault := true, cause := .notInitialized, response := some ⟨0x0a#8, none⟩ }

/-- R118: while `FAULT` = 1 every command word, legal or not, is accepted and answered with the unchanged
`STATUS` and no data; no step but a reset changes `S`, `cursor`, `VALID`, `FAULT` or `CAUSE`; the state is
never final. -/
def Obligations.HaltedBlockOnlyAnswers : Prop :=
  ∀ s : State, s.fault = true →
    (∀ (w : CommandWord) (rest : List HostEvent),
      s.inputs = .command w :: rest → s.response = none →
      step s = .next { s with inputs := rest, response := some ⟨s.status, none⟩ }) ∧
    (∀ t : State, step s = .next t →
      (t.S = s.S ∧ t.cursor = s.cursor ∧ t.valid = s.valid ∧ t.fault = true ∧ t.cause = s.cause) ∨
      (∃ rest : List HostEvent, s.inputs = .reset :: rest) ∨
      (∃ (w : CommandWord) (rest : List HostEvent), s.inputs = .resetDuring w :: rest)) ∧
    ¬ s.Final

/-- R122: the order in which the fault conditions are checked. That the fourth never holds the spec derives in
R103. -/
def Obligations.FaultPriority : Prop :=
  ∀ (s : State) (w : CommandWord) (rest : List HostEvent),
    s.inputs = .command w :: rest → s.response = none →
    ∃ t, step s = .next t ∧
      (t.fault, t.cause) =
        if s.fault then (true, s.cause)
        else if w.extractLsb' 128 8 ≠ 0x01#8 ∧ w.extractLsb' 128 8 ≠ 0x02#8 then (true, .illegalCommand)
        else if w.extractLsb' 128 8 = 0x02#8 ∧ s.valid = false then (true, .notInitialized)
        else (false, s.cause)

/-! ### INIT -/

/-- R70 to R74, R78: the whole effect of `INIT` where the block has not faulted: `S[0]` is the exclusive-or of
the operands, each later word follows by the recurrence modulo 2^64, the cursor is `N`, `VALID` is set,
the answer has data 0 (and `STATUS` 0x01 where `CAUSE` is 0), and nothing else changes. -/
def Obligations.InitFillsStateArray : Prop :=
  ∀ (seed y : Word) (s : State), s.fault = false →
    ∃ A : StateArray,
      exec (.init seed y) s = .next
        { s with
          S := A
          cursor := 312
          valid := true
          response := some ⟨statusByte s.cause false true, some 0⟩ } ∧
      (s.cause = .none → statusByte s.cause false true = 0x01#8) ∧
      A[0] = seed ^^^ y ∧
      ∀ (i : Nat) (h : i < 311),
        A[i + 1] = (A[i] ^^^ (A[i] >>> 62)) * 6364136223846793005 + BitVec.ofNat 64 (i + 1)

/-- R75 and what the spec derives in R77: what `INIT` leaves in `S`, `cursor` and `VALID` depends on `seed xor y` alone, and on nothing of
the state before it. -/
def Obligations.InitDependsOnXorAlone : Prop :=
  ∀ (seed y seed' y' : Word) (s s' : State), s.fault = false → s'.fault = false →
    seed ^^^ y = seed' ^^^ y' →
    ∃ t t', exec (.init seed y) s = .next t ∧ exec (.init seed' y') s' = .next t' ∧
      t.S = t'.S ∧ t.cursor = t'.cursor ∧ t.valid = t'.valid

/-- The spec derives in R76 the first words for `seed xor y` = 0, and in R92 that no seed leaves an all-zero
array. -/
def Obligations.InitOfEqualSeeds : Prop :=
  (∀ (seed : Word) (s : State), s.fault = false →
    ∃ t, exec (.init seed seed) s = .next t ∧
      t.S[0] = 0 ∧ t.S[1] = 1 ∧ t.S[2] = 0x5851f42d4c957f2f) ∧
  (∀ (seed y : Word) (s : State), s.fault = false →
    ∃ t, exec (.init seed y) s = .next t ∧ t.S ≠ Vector.replicate 312 0)

/-! ### REGEN -/

/-- R80: `mix(a, b)`, with its masks and its matrix constant written out (R9, R10). -/
def Obligations.MixFormula : Prop :=
  ∀ a b : Word, ∃ combined : Word,
    combined = (a &&& 0xffffffff80000000) ||| (b &&& 0x000000007fffffff) ∧
    mix a b = (combined >>> 1) ^^^ ((combined &&& 1) * 0xb5026f5aa96619e9)

/-- The properties of `mix` that the spec derives in R81. -/
def Obligations.MixProperties : Prop :=
  ∀ a b a' b' : Word,
    (∀ k, k < 64 → (combine a b).getLsbD k = if k < 31 then b.getLsbD k else a.getLsbD k) ∧
    ((∀ k, 31 ≤ k → k < 64 → a.getLsbD k = a'.getLsbD k) → (∀ k, k < 31 → b.getLsbD k = b'.getLsbD k) →
      mix a b = mix a' b') ∧
    (mix a b).getLsbD 63 = b.getLsbD 0 ∧
    mix a a = (a >>> 1) ^^^ (if a.getLsbD 0 then 0xb5026f5aa96619e9 else 0) ∧
    mix 0 0 = 0

/-- The recurrences of pass 1 (R84), pass 2 (R86) and the final step (R88), under either reading, with what the
spec derives: that no index check fails (R83), that pass 1 uses old words (R84), that pass 2 feeds back new
ones (R87), and the values the final step uses (R88). -/
def Obligations.RegenRecurrence : Prop :=
  ∀ (src : WrapBSource) (S : StateArray),
    ∃ A : StateArray, regenWith src S = some A ∧
      (∀ (i : Nat) (h : i < 156), A[i] = S[i + 156] ^^^ mix S[i] S[i + 1]) ∧
      (∀ (i : Nat) (h : i < 155), A[i + 156] = A[i] ^^^ mix S[i + 156] S[i + 156 + 1]) ∧
      A[311] = A[155] ^^^ mix S[311] (if src = .self then S[311] else A[0])

/-- The spec derives in R91: the modulo-indexed loop gives exactly `REGEN` under `STATE0`, and all but the last word of it under
either reading. -/
def Obligations.ModuloLoopIsStateZeroReading : Prop :=
  ∀ S : StateArray,
    regenModulo S = regenWith .state0 S ∧
    ∀ src : WrapBSource, ∃ A B : StateArray, regenModulo S = some A ∧ regenWith src S = some B ∧
      ∀ (i : Nat) (h : i < 311), A[i] = B[i]

/-- The spec derives in R88: the two readings agree on `S[0]` to `S[N-2]` and differ in `S[N-1]` whenever bits 30:0 of the old
`S[311]` and the new `S[0]` differ. -/
def Obligations.ReadingsDifferInLastWordOnly : Prop :=
  ∀ S : StateArray, ∃ A B : StateArray,
    regenWith .self S = some A ∧ regenWith .state0 S = some B ∧
    (∀ (i : Nat) (h : i < 311), A[i] = B[i]) ∧
    (S[311].extractLsb' 0 31 ≠ B[0].extractLsb' 0 31 → A[311] ≠ B[311])

/-- The corner cases of `REGEN` that the spec derives in R92, each word of the result named or zero: an all-zero array stays so, and
the arrays whose only nonzero word is `S[1]` = 1, `S[311]` = 1 or `S[0]` = 2^63. -/
def Obligations.RegenCornerCases : Prop :=
  ∀ src : WrapBSource,
    regenWith src (Vector.replicate 312 0) = some (Vector.replicate 312 0) ∧
    (∃ A : StateArray, regenWith src ((Vector.replicate 312 0).set 1 1) = some A ∧
      A[0] = 0xb5026f5aa96619e9 ∧ A[156] = 0xb5026f5aa96619e9 ∧
      A[311] = (if src = .self then 0 else 0xb5026f5abdd5151d) ∧
      ∀ (i : Nat) (h : i < 312), i ≠ 0 → i ≠ 156 → i ≠ 311 → A[i] = 0) ∧
    (∃ A : StateArray, regenWith src ((Vector.replicate 312 0).set 311 1) = some A ∧
      A[155] = 1 ∧ A[310] = 0xb5026f5aa96619e9 ∧
      A[311] = (if src = .self then 0xb5026f5aa96619e8 else 1) ∧
      ∀ (i : Nat) (h : i < 312), i ≠ 155 → i ≠ 310 → i ≠ 311 → A[i] = 0) ∧
    (∃ A : StateArray, regenWith src ((Vector.replicate 312 0).set 0 0x8000000000000000) = some A ∧
      A[0] = 0x4000000000000000 ∧ A[156] = 0x4000000000000000 ∧
      ∀ (i : Nat) (h : i < 312), i ≠ 0 → i ≠ 156 → A[i] = 0)

/-! ### NEXT -/

/-- R104: the four tempering steps, in their order, with their shifts and masks written out (R11). -/
def Obligations.TemperSteps : Prop :=
  ∀ r : Word, ∃ r1 r2 r3 : Word,
    r1 = r ^^^ ((r >>> 29) &&& 0x5555555555555555) ∧
    r2 = r1 ^^^ ((r1 <<< 17) &&& 0x71d67fffeda60000) ∧
    r3 = r2 ^^^ ((r2 <<< 37) &&& 0xfff7eee000000000) ∧
    temper r = r3 ^^^ (r3 >>> 43)

/-- The spec derives in R105: tempering is a bijection on words, and fixes 0. -/
def Obligations.TemperIsBijective : Prop := Function.Bijective temper ∧ temper 0 = 0

/-- R102, R107: a `NEXT` with `cursor` < `N` runs no `REGEN`: it answers the tempered word at the
cursor, advances the cursor by 1 and changes nothing else. -/
def Obligations.NextReadsAtCursor : Prop :=
  ∀ (s : State) (h : s.cursor.toNat < 312), s.fault = false → s.valid = true →
    ∃ t, exec .next s = .next t ∧
      t = { s with
        cursor := s.cursor + 1
        response := some ⟨statusByte s.cause false true, some (temper s.S[s.cursor.toNat])⟩ } ∧
      t.cursor.toNat = s.cursor.toNat + 1 ∧
      (s.cause = .none → statusByte s.cause false true = 0x01#8)

/-- R101: a `NEXT` with `cursor` ≥ `N`, a cursor above `N` included, first refills `S`, then answers the
tempered word 0 of the new array and leaves the cursor at 1; with `cursor` < `N` it runs no `REGEN`. -/
def Obligations.NextRefillsExhaustedArray : Prop :=
  ∀ s : State, s.fault = false → s.valid = true →
    (312 ≤ s.cursor.toNat →
      ∃ A : StateArray, regenWith s.wrapBSource s.S = some A ∧
        exec .next s = .next
          { s with
            S := A
            cursor := 1
            response := some ⟨statusByte s.cause false true, some (temper A[0])⟩ }) ∧
    (s.cursor.toNat < 312 → ∃ t, exec .next s = .next t ∧ t.S = s.S)

/-- R24: `REGEN` leaves `cursor` = 0, `INIT` leaves `N`, and every successful `NEXT` leaves it in [1, N]. -/
def Obligations.CursorStaysInRange : Prop :=
  (∀ s : State, ∃ t, regen s = some t ∧ t.cursor = 0) ∧
  (∀ (seed y : Word) (s : State), s.fault = false →
    ∃ t, exec (.init seed y) s = .next t ∧ t.cursor.toNat = 312) ∧
  (∀ s : State, s.fault = false → s.valid = true →
    ∃ t, exec .next s = .next t ∧ 1 ≤ t.cursor.toNat ∧ t.cursor.toNat ≤ 312)

/-- The spec derives in R103: no command raises `INVARIANT_VIOLATION`, from any state, legal or not. -/
def Obligations.InvariantViolationUnreachable : Prop :=
  ∀ (i : Instr) (s : State), s.cause ≠ .invariantViolation →
    ∃ t, exec i s = .next t ∧ t.cause ≠ .invariantViolation

/-! ### Both commands, whole runs -/

/-- R28, R29, R30, R21: who writes what. Only an `INIT` that runs sets `VALID`; only a fault, which among the
commands is `NEXT` before `INIT`, writes `FAULT` and `CAUSE`; `S` changes only by an `INIT` that runs or
a `NEXT` that refills; the host's inputs, the parameter and the model's counter are never touched. -/
def Obligations.CommandFrame : Prop :=
  ∀ (i : Instr) (s t : State), exec i s = .next t →
    t.inputs = s.inputs ∧ t.wrapBSource = s.wrapBSource ∧ t.freeDraws = s.freeDraws ∧
    (t.valid ≠ s.valid → s.fault = false ∧ t.valid = true ∧ ∃ seed y, i = .init seed y) ∧
    ((t.fault ≠ s.fault ∨ t.cause ≠ s.cause) → i = .next ∧ s.fault = false ∧ s.valid = false) ∧
    (t.S ≠ s.S → s.fault = false ∧
      ((∃ seed y, i = .init seed y) ∨ (i = .next ∧ s.valid = true ∧ 312 ≤ s.cursor.toNat))) ∧
    (t.cursor ≠ s.cursor → s.fault = false ∧ ((∃ seed y, i = .init seed y) ∨ (i = .next ∧ s.valid = true)))

/-- Every step keeps the state legal: the cursor's range (R24), `CAUSE` with `FAULT` (R27), the standing response
(R60), and no `INVARIANT_VIOLATION` (R103). -/
def Obligations.StepKeepsLegal : Prop :=
  ∀ s t : State, s.Legal → step s = .next t → t.Legal

/-- R33, R36: `S` and `cursor` are hidden: two states that differ in them only while `VALID` = 0 stay
indistinguishable, response by response. -/
def Obligations.StepKeepsAgreement : Prop :=
  ∀ s t : State, s.Agrees t → OutcomesAgree (step s) (step t)

/-- R111: after an `INIT` with equal operands two blocks with the same `WRAP_B_SOURCE`, whatever they held before,
answer alike for ever under the same host. -/
def Obligations.FreshGeneratorsAnswerAlike : Prop :=
  ∀ (seed y : Word) (rest : List HostEvent) (s t : State) (n : Nat),
    s.Legal → t.Legal → s.fault = false → t.fault = false → s.response = none → t.response = none →
    s.inputs = .command (encode (.init seed y)) :: rest → t.inputs = s.inputs →
    t.wrapBSource = s.wrapBSource →
    OutcomesAgree (Sys2Proof.core.run (n + 1) s) (Sys2Proof.core.run (n + 1) t)

/-- The output sequence the spec derives in R109 and R110. After an `INIT`, `NEXT` number `k` answers the tempered word `k mod N` of
epoch `k / N + 1` and leaves the cursor at `k mod N + 1`; so `REGEN` runs at calls 1, N+1, 2N+1 and so on. -/
def Obligations.OutputSequence : Prop :=
  ∀ (seed y : Word) (k : Nat) (rest : List HostEvent) (s : State),
    s.fault = false → s.cause = .none → s.response = none →
    s.inputs = hostScript (encode (.init seed y) :: List.replicate (k + 1) (encode .next)) ++ rest →
    ∃ (u t : State) (E : StateArray),
      exec (.init seed y) s = .next u ∧
      epochArray s.wrapBSource u.S (k / 312 + 1) = some E ∧
      Sys2Proof.core.run (2 * k + 3) s = .next t ∧
      t.S = E ∧ t.cursor.toNat = k % 312 + 1 ∧
      t.response = some ⟨0x01#8, some (temper (E[k % 312]'(Nat.mod_lt _ (by decide))))⟩

/-- The spec derives in R112: outputs 0 to 310 after an `INIT` do not depend on `WRAP_B_SOURCE`. Two blocks that
differ in it alone are run side by side. -/
def Obligations.FirstEpochSameUnderBothReadings : Prop :=
  ∀ (seed y : Word) (s : State) (k : Nat), s.fault = false → k ≤ 310 →
    ∃ u u' t t' : State,
      exec (.init seed y) { s with wrapBSource := .self } = .next u ∧
      exec (.init seed y) { s with wrapBSource := .state0 } = .next u' ∧
      afterNexts (k + 1) u = .next t ∧ afterNexts (k + 1) u' = .next t' ∧
      t.wrapBSource = .self ∧ t'.wrapBSource = .state0 ∧
      t.response = t'.response ∧ t.cursor = t'.cursor

/-- R13, R26: the parameter `WRAP_B_SOURCE` has its default in a block nothing else is said of, and no step, a
reset among them, changes it. -/
def Obligations.WrapBSourceIsFixed : Prop :=
  State.reset.wrapBSource = .self ∧
  ∀ s t : State, step s = .next t → t.wrapBSource = s.wrapBSource

/-- R13, R88, R101, C1: a block built with either value runs, and its value alone decides the last word: a `NEXT`
that refills the array whose only nonzero word is `S[311]` = 1 leaves the last word that R92 names. -/
def Obligations.EitherReadingRuns : Prop :=
  ∀ s : State, s.fault = false → s.valid = true → 312 ≤ s.cursor.toNat →
    s.S = (Vector.replicate 312 0).set 311 1 →
    (∃ t, exec .next { s with wrapBSource := .self } = .next t ∧ t.wrapBSource = .self ∧
      t.S[311] = 0xb5026f5aa96619e8) ∧
    (∃ t, exec .next { s with wrapBSource := .state0 } = .next t ∧ t.wrapBSource = .state0 ∧
      t.S[311] = 1)
end

