-- ==== Sys2Proof/Laws/Decode.lean ====
section
/-! SUPPORT. The fields of a command word, and the two decodings. -/

namespace Sys2Proof

/-- Each bit of a command word is a bit of one of its fields (R55). -/
theorem commandWord_getLsbD (op : BitVec 8) (a b : Word) (i : Nat) :
    (commandWord op a b).getLsbD i =
      if i < 64 then b.getLsbD i
      else if i - 64 < 64 then a.getLsbD (i - 64)
      else op.getLsbD (i - 64 - 64) := by
  unfold commandWord
  rw [BitVec.getLsbD_cast, BitVec.getLsbD_append, BitVec.getLsbD_append]

@[simp] theorem opField_commandWord (op : BitVec 8) (a b : Word) : opField (commandWord op a b) = op := by
  ext i hi
  have h1 : ¬ 128 + i < 64 := by omega
  have h2 : ¬ 128 + i - 64 < 64 := by omega
  simp [opField, commandWord_getLsbD, h1, h2, show 128 + i - 64 - 64 = i by omega,
    BitVec.getLsbD_eq_getElem hi]

@[simp] theorem aField_commandWord (op : BitVec 8) (a b : Word) : aField (commandWord op a b) = a := by
  ext i hi
  simp [aField, commandWord_getLsbD, hi]

@[simp] theorem bField_commandWord (op : BitVec 8) (a b : Word) : bField (commandWord op a b) = b := by
  ext i hi
  simp [bField, commandWord_getLsbD, hi]

/-- A command word is its three fields (R55). -/
theorem commandWord_fields (w : CommandWord) : commandWord (opField w) (aField w) (bField w) = w := by
  apply BitVec.eq_of_getLsbD_eq
  intro i hi
  rw [commandWord_getLsbD]
  simp only [opField, aField, bField, BitVec.getLsbD_extractLsb']
  split
  · simp [*]
  · split
    · simp [*, show 64 + (i - 64) = i by omega]
    · simp [show 128 + (i - 64 - 64) = i by omega, show i - 64 - 64 < 8 by omega]

theorem opInit_ne_opNext : opInit ≠ opNext := by decide

/-- R57: a word with `INIT`'s opcode. -/
theorem decode_of_opInit {w : CommandWord} (h : opField w = opInit) :
    decode w = .command (.init (aField w) (bField w)) := by
  simp [decode, h]

/-- R58: a word with `NEXT`'s opcode, whatever its operand fields. -/
theorem decode_of_opNext {w : CommandWord} (h : opField w = opNext) : decode w = .command .next := by
  simp [decode, h, opInit_ne_opNext.symm]

/-- R59: a word with any other opcode. -/
theorem decode_of_reserved {w : CommandWord} (hi : opField w ≠ opInit) (hn : opField w ≠ opNext) :
    decode w = .reservedOpcode (opField w) := by
  simp [decode, hi, hn]

end Sys2Proof
end

