-- ==== Sys2Proof/Laws/Init.lean ====
section
/-! SUPPORT. The words of the array that `INIT` writes. -/

namespace Sys2Proof.Machine

/-- Each word follows from the one before it. -/
theorem wordsFrom_getElem_succ (f : Nat → Word → Word) (n i k : Nat) (x : Word) (h : k + 1 < n) :
    (wordsFrom f n i x)[k + 1]'(by simpa using h)
      = f (i + (k + 1)) ((wordsFrom f n i x)[k]'(by simp; omega)) := by
  induction n generalizing i k x with
  | zero => omega
  | succ n ih =>
    cases k with
    | zero =>
      obtain _ | n := n
      · omega
      · simp [wordsFrom]
    | succ k =>
      have := ih (i + 1) k (f (i + 1) x) (by omega)
      rw [show i + 1 + (k + 1) = i + (k + 1 + 1) by omega] at this
      simpa only [wordsFrom, List.getElem_cons_succ] using this

/-- R71: word 0 is the seed word. -/
theorem seedArray_zero (x : Word) : (seedArray x)[0] = x := rfl

/-- R72: each later word follows from the one before it. -/
theorem seedArray_succ (x : Word) (i : Nat) (h : i < 311) :
    (seedArray x)[i + 1] = seedStep (i + 1) (seedArray x)[i] := by
  have h' := wordsFrom_getElem_succ seedStep N 0 i x (Nat.succ_lt_succ h)
  rw [Nat.zero_add] at h'
  exact h'

end Sys2Proof.Machine
end

