-- ==== Sys2Proof/Laws/State.lean ====
section
/-! SUPPORT. One lemma per field and update of State, each true by definition. -/

namespace Sys2Proof.Machine

@[simp] theorem State.respond_S (d : Option Word) (s : State) : (State.respond d s).S = s.S := rfl
@[simp] theorem State.respond_cursor (d : Option Word) (s : State) :
    (State.respond d s).cursor = s.cursor := rfl
@[simp] theorem State.respond_valid (d : Option Word) (s : State) : (State.respond d s).valid = s.valid := rfl
@[simp] theorem State.respond_fault (d : Option Word) (s : State) : (State.respond d s).fault = s.fault := rfl
@[simp] theorem State.respond_cause (d : Option Word) (s : State) : (State.respond d s).cause = s.cause := rfl
@[simp] theorem State.respond_response (d : Option Word) (s : State) :
    (State.respond d s).response = some ⟨s.status, d⟩ := rfl
@[simp] theorem State.respond_inputs (d : Option Word) (s : State) :
    (State.respond d s).inputs = s.inputs := rfl
@[simp] theorem State.respond_wrapBSource (d : Option Word) (s : State) :
    (State.respond d s).wrapBSource = s.wrapBSource := rfl
@[simp] theorem State.respond_freeDraws (d : Option Word) (s : State) :
    (State.respond d s).freeDraws = s.freeDraws := rfl

@[simp] theorem raiseFault_S (c : Cause) (s : State) : (raiseFault c s).S = s.S := rfl
@[simp] theorem raiseFault_cursor (c : Cause) (s : State) : (raiseFault c s).cursor = s.cursor := rfl
@[simp] theorem raiseFault_valid (c : Cause) (s : State) : (raiseFault c s).valid = s.valid := rfl
@[simp] theorem raiseFault_fault (c : Cause) (s : State) : (raiseFault c s).fault = true := rfl
@[simp] theorem raiseFault_cause (c : Cause) (s : State) : (raiseFault c s).cause = c := rfl
@[simp] theorem raiseFault_response (c : Cause) (s : State) : (raiseFault c s).response = s.response := rfl
@[simp] theorem raiseFault_inputs (c : Cause) (s : State) : (raiseFault c s).inputs = s.inputs := rfl
@[simp] theorem raiseFault_wrapBSource (c : Cause) (s : State) :
    (raiseFault c s).wrapBSource = s.wrapBSource := rfl
@[simp] theorem raiseFault_freeDraws (c : Cause) (s : State) : (raiseFault c s).freeDraws = s.freeDraws := rfl

@[simp] theorem takeFault_S (c : Cause) (s : State) : (takeFault c s).S = s.S := rfl
@[simp] theorem takeFault_cursor (c : Cause) (s : State) : (takeFault c s).cursor = s.cursor := rfl
@[simp] theorem takeFault_valid (c : Cause) (s : State) : (takeFault c s).valid = s.valid := rfl
@[simp] theorem takeFault_fault (c : Cause) (s : State) : (takeFault c s).fault = true := rfl
@[simp] theorem takeFault_cause (c : Cause) (s : State) : (takeFault c s).cause = c := rfl
@[simp] theorem takeFault_response (c : Cause) (s : State) :
    (takeFault c s).response = some ⟨statusByte c true s.valid, none⟩ := rfl
@[simp] theorem takeFault_inputs (c : Cause) (s : State) : (takeFault c s).inputs = s.inputs := rfl
@[simp] theorem takeFault_wrapBSource (c : Cause) (s : State) :
    (takeFault c s).wrapBSource = s.wrapBSource := rfl
@[simp] theorem takeFault_freeDraws (c : Cause) (s : State) : (takeFault c s).freeDraws = s.freeDraws := rfl

@[simp] theorem forgetStorage_S (s : State) : (forgetStorage s).S = Config.freeStateArray s.freeDraws := rfl
@[simp] theorem forgetStorage_cursor (s : State) :
    (forgetStorage s).cursor = Config.freeCursor s.freeDraws := rfl
@[simp] theorem forgetStorage_valid (s : State) : (forgetStorage s).valid = s.valid := rfl
@[simp] theorem forgetStorage_fault (s : State) : (forgetStorage s).fault = s.fault := rfl
@[simp] theorem forgetStorage_cause (s : State) : (forgetStorage s).cause = s.cause := rfl
@[simp] theorem forgetStorage_response (s : State) : (forgetStorage s).response = s.response := rfl
@[simp] theorem forgetStorage_inputs (s : State) : (forgetStorage s).inputs = s.inputs := rfl
@[simp] theorem forgetStorage_wrapBSource (s : State) : (forgetStorage s).wrapBSource = s.wrapBSource := rfl
@[simp] theorem forgetStorage_freeDraws (s : State) : (forgetStorage s).freeDraws = s.freeDraws + 1 := rfl

@[simp] theorem resetBlock_S (s : State) : (resetBlock s).S = Config.freeStateArray s.freeDraws := rfl
@[simp] theorem resetBlock_cursor (s : State) : (resetBlock s).cursor = Config.freeCursor s.freeDraws := rfl
@[simp] theorem resetBlock_valid (s : State) : (resetBlock s).valid = false := rfl
@[simp] theorem resetBlock_fault (s : State) : (resetBlock s).fault = false := rfl
@[simp] theorem resetBlock_cause (s : State) : (resetBlock s).cause = .none := rfl
@[simp] theorem resetBlock_response (s : State) : (resetBlock s).response = none := rfl
@[simp] theorem resetBlock_inputs (s : State) : (resetBlock s).inputs = s.inputs := rfl
@[simp] theorem resetBlock_wrapBSource (s : State) : (resetBlock s).wrapBSource = s.wrapBSource := rfl
@[simp] theorem resetBlock_freeDraws (s : State) : (resetBlock s).freeDraws = s.freeDraws + 1 := rfl

@[simp] theorem State.respond_status (d : Option Word) (s : State) : (State.respond d s).status = s.status := rfl

@[simp] theorem takeFault_status (c : Cause) (s : State) :
    (takeFault c s).status = statusByte c true s.valid := rfl

end Sys2Proof.Machine
end

