-- ==== Sys2Proof/Laws/Storage.lean ====
section
/-! SUPPORT. The checked accesses to the state array, and the rule for a counted loop. -/

namespace Sys2Proof.Machine

/-- A read within the bounds answers the word there. -/
theorem readWord_of_lt (S : StateArray) {i : Nat} (h : i < 312) : readWord S i = some S[i] := by
  simp [readWord, h]

/-- A read outside the bounds fails its index check. -/
theorem readWord_of_ge (S : StateArray) {i : Nat} (h : 312 ≤ i) : readWord S i = none := by
  simp [readWord, h]

/-- A write within the bounds changes that word. -/
theorem writeWord_of_lt (S : StateArray) {i : Nat} (v : Word) (h : i < 312) :
    writeWord S i v = some (S.set i v h) := by
  simp [writeWord, h]

/-- A write outside the bounds fails its index check. -/
theorem writeWord_of_ge (S : StateArray) {i : Nat} (v : Word) (h : 312 ≤ i) : writeWord S i v = none := by
  simp [writeWord, h]

/-- A read after a write at the same index gives the word written. -/
theorem readWord_writeWord_same {S S' : StateArray} {i : Nat} {v : Word} (h : writeWord S i v = some S') :
    readWord S' i = some v := by
  by_cases hi : i < 312
  · rw [writeWord_of_lt S v hi, Option.some.injEq] at h
    subst h
    simp [readWord_of_lt _ hi]
  · simp [writeWord_of_ge S v (Nat.le_of_not_lt hi)] at h

/-- A write leaves every other word alone. -/
theorem readWord_writeWord_ne {S S' : StateArray} {i j : Nat} {v : Word} (h : writeWord S i v = some S')
    (hij : i ≠ j) : readWord S' j = readWord S j := by
  by_cases hi : i < 312
  · rw [writeWord_of_lt S v hi, Option.some.injEq] at h
    subst h
    simp [readWord, hij]
  · simp [writeWord_of_ge S v (Nat.le_of_not_lt hi)] at h

/-- An invariant `P` of the loop index and the loop state that every round keeps holds at the end, and no
round fails. -/
theorem loopFrom_spec {σ : Type} {body : Nat → σ → Option σ} (P : Nat → σ → Prop) (i n : Nat) (t : σ)
    (h0 : P i t)
    (hstep : ∀ j u, i ≤ j → j < i + n → P j u → ∃ u', body j u = some u' ∧ P (j + 1) u') :
    ∃ u, loopFrom body i n t = some u ∧ P (i + n) u := by
  induction n generalizing i t with
  | zero => exact ⟨t, rfl, h0⟩
  | succ n ih =>
    obtain ⟨t', ht', hP⟩ := hstep i t (Nat.le_refl i) (by omega) h0
    obtain ⟨u, hu, hPu⟩ := ih (i + 1) t' hP fun j v hj hjn => hstep j v (by omega) (by omega)
    exact ⟨u, by simp [loopFrom, ht', hu], by simpa [Nat.add_assoc, Nat.add_comm 1 n] using hPu⟩

/-- The rule for "for i = lo to hi". -/
theorem forTo_spec {σ : Type} {body : Nat → σ → Option σ} (P : Nat → σ → Prop) (lo hi : Nat) (t : σ)
    (hle : lo ≤ hi + 1) (h0 : P lo t)
    (hstep : ∀ j u, lo ≤ j → j ≤ hi → P j u → ∃ u', body j u = some u' ∧ P (j + 1) u') :
    ∃ u, forTo lo hi body t = some u ∧ P (hi + 1) u := by
  have h := loopFrom_spec (body := body) P lo (hi + 1 - lo) t h0
    fun j u hj hjn => hstep j u hj (by omega)
  rwa [Nat.add_sub_cancel' hle] at h

end Sys2Proof.Machine
end

