-- ==== Sys2Proof/Laws/Next.lean ====
section
/-! SUPPORT. The parts of `NEXT`, each under the condition that selects it, and the injectivity of a masked
shift step. -/

namespace Sys2Proof.Machine

/-- R101: no refill below `N`. -/
theorem refill_of_lt {s : State} (h : s.cursor.toNat < 312) : refill s = some s := by
  rw [refill, if_neg (by simp only [N]; omega)]

/-- R101, R89: the refill at or above `N`. -/
theorem refill_of_ge {s : State} {A : StateArray} (h : 312 ≤ s.cursor.toNat)
    (hA : regenWith s.wrapBSource s.S = some A) : refill s = some { s with S := A, cursor := 0 } := by
  rw [refill, if_pos (by simpa only [N] using h), regen, hA]
  rfl

/-- R102: the read below `N`. -/
theorem emitWord_of_lt (s : State) (h : s.cursor.toNat < 312) :
    emitWord s
      = State.respond (some (temper s.S[s.cursor.toNat])) { s with cursor := s.cursor + 1 } := by
  unfold emitWord
  rw [readWord_of_lt _ h]

/-- R108: without an `INIT`. -/
theorem produceNext_of_invalid {s : State} (h : s.valid = false) :
    produceNext s = takeFault .notInitialized s := by
  simp [produceNext, h]

/-- R100: after the refill. -/
theorem produceNext_of_refill {s s' : State} (hv : s.valid = true)
    (h : refill s = some s') : produceNext s = emitWord s' := by
  simp [produceNext, hv, h]

/-- A word equal to a masked right shift of itself is 0. -/
theorem eq_zero_of_eq_ushiftRight {d m : Word} {k : Nat} (hk : 0 < k) (h : d = (d >>> k) &&& m) :
    d = 0 := by
  have key : ∀ n i, 64 ≤ i + n → d.getLsbD i = false := by
    intro n
    induction n with
    | zero => exact fun i hi => BitVec.getLsbD_of_ge _ _ hi
    | succ n ih =>
      intro i hi
      rw [h, BitVec.getLsbD_and, BitVec.getLsbD_ushiftRight, ih (k + i) (by omega), Bool.false_and]
  apply BitVec.eq_of_getLsbD_eq
  intro i _
  rw [key 64 i (by omega)]
  simp

/-- A word equal to a masked left shift of itself is 0. -/
theorem eq_zero_of_eq_shiftLeft {d m : Word} {k : Nat} (hk : 0 < k) (h : d = (d <<< k) &&& m) :
    d = 0 := by
  have key : ∀ n i, i < n → d.getLsbD i = false := by
    intro n
    induction n with
    | zero => exact fun i hi => absurd hi (Nat.not_lt_zero i)
    | succ n ih =>
      intro i hi
      rw [h, BitVec.getLsbD_and, BitVec.getLsbD_shiftLeft]
      by_cases hik : i < k
      · simp [hik]
      · rw [ih (i - k) (by omega)]
        simp
  apply BitVec.eq_of_getLsbD_eq
  intro i hi
  rw [key 64 i hi]
  simp

end Sys2Proof.Machine
end

