-- ==== Sys2Proof/Laws/Ops.lean ====
section
/-! SUPPORT. What each shared operation can do, said once: the status byte, the halted state, one step by
its event. -/

namespace Sys2Proof.Machine

/-- Distinct contents give distinct status bytes. -/
theorem statusByte_inj {c c' : Cause} {f f' v v' : Bool} :
    statusByte c f v = statusByte c' f' v' ↔ c = c' ∧ f = f' ∧ v = v' := by
  cases c <;> cases c' <;> cases f <;> cases f' <;> cases v <;> cases v' <;> decide

/-- A halted block answers and does nothing else. -/
theorem unlessHalted_of_fault {perform : State → State} {s : State} (h : s.fault = true) :
    unlessHalted perform s = State.respond none s := by
  simp [unlessHalted, h]

/-- A block that has not faulted performs the command. -/
theorem unlessHalted_of_running {perform : State → State} {s : State} (h : s.fault = false) :
    unlessHalted perform s = perform s := by
  simp [unlessHalted, h]

theorem exec_init (seed y : Word) (s : State) :
    exec (.init seed y) s = .next (unlessHalted (initialise seed y) s) := rfl

theorem exec_next (s : State) : exec .next s = .next (unlessHalted produceNext s) := rfl

/-- What a step does, by the host's earliest event. -/
theorem step_nil {s : State} (h : s.inputs = []) : step s = .next s := by
  simp [step, nextEvent, h, idle]

theorem step_cons {s : State} {e : HostEvent} {rest : List HostEvent} (h : s.inputs = e :: rest) :
    step s = handleEvent e { s with inputs := rest } := by
  simp [step, nextEvent, h]

/-- An accepted command word is performed. -/
theorem step_command {s : State} {w : CommandWord} {rest : List HostEvent}
    (h : s.inputs = .command w :: rest) (hr : s.response = none) :
    step s = performWord w { s with inputs := rest } := by
  simp [step_cons h, handleEvent, acceptWord, hr]

/-- A command word offered against the handshake gets no step. -/
theorem step_command_refused {s : State} {w : CommandWord} {rest : List HostEvent} {r : Response}
    (h : s.inputs = .command w :: rest) (hr : s.response = some r) :
    step s = .refused .handshakeBroken := by
  simp [step_cons h, handleEvent, acceptWord, hr]

/-- The very next step after a word is placed performs it. -/
theorem step_withFetchWord (s : State) (nbits w : Nat) :
    step (s.withFetchWord nbits w) = performWord (tableWord nbits w) { s with response := none } := by
  rw [step_command (rest := s.inputs) rfl rfl]
  rfl

end Sys2Proof.Machine
end

