-- ==== Sys2Proof/Laws/PerInstr.lean ====
section
/-! SUPPORT. A statement for every command, one lemma per constructor: an encoded command matches its row of
spec/opcode_table.json. -/

namespace Sys2Proof.Laws.TableRow

/-- The encoding agrees with the row's match under the row's mask. -/
def Statement (i : Instr) : Prop := encode i &&& tableMask i = tableMatch i

theorem init (seed y : Word) : Statement (.init seed y) := by
  have hmask : (0xff00000000000000000000000000000000#136) = commandWord 0xff#8 0 0 := by decide
  have hmatch : (0x0100000000000000000000000000000000#136) = commandWord opInit 0 0 := by decide
  have hop : opInit &&& 0xff#8 = opInit := by decide
  simp only [Statement, encode, tableMask, tableMatch, hmask, hmatch]
  apply BitVec.eq_of_getLsbD_eq
  intro i _
  rw [BitVec.getLsbD_and, commandWord_getLsbD, commandWord_getLsbD, commandWord_getLsbD]
  split
  · simp
  · split
    · simp
    · rw [← BitVec.getLsbD_and, hop]

theorem next : Statement .next := by
  unfold Statement
  decide

end Sys2Proof.Laws.TableRow
end

