-- ==== Sys2Proof/Laws/Regen.lean ====
section
/-! SUPPORT. What `mix`, one step of the twist, each pass and the final step do. -/

namespace Sys2Proof.Machine

/-! ### mix -/

theorem upperMask_getLsbD {k : Nat} (h : k < 64) : upperMask.getLsbD k = decide (31 ≤ k) := by
  revert k
  decide

theorem lowerMask_getLsbD {k : Nat} (h : k < 64) : lowerMask.getLsbD k = decide (k < 31) := by
  revert k
  decide

/-- Multiplying by bit 0 is a select. -/
theorem and_one_mul (c m : Word) : (c &&& 1) * m = if c.getLsbD 0 then m else 0 := by
  have h1 : c &&& 1 = if c.getLsbD 0 then 1 else 0 := by
    apply BitVec.eq_of_getLsbD_eq
    intro i _
    rcases i with _ | i
    · cases h : c.getLsbD 0 <;> simp_all
    · cases c.getLsbD 0 <;> simp [BitVec.getLsbD_one]
  rw [h1]
  cases c.getLsbD 0 <;> simp

/-! ### One step -/

/-- R83: one step of either pass, its indices within the bounds. -/
theorem twistStep_of_lt (t : Twist) {feedback i : Nat} (hf : feedback < 312) (hi : i + 1 < 312) :
    twistStep feedback i t
      = some ⟨t.S.set i (t.S[feedback] ^^^ mix t.carry t.S[i + 1]), t.S[i + 1]⟩ := by
  simp [twistStep, readWord_of_lt _ hf, readWord_of_lt _ hi,
    writeWord_of_lt _ _ (Nat.lt_of_succ_lt hi)]

/-- R91: one step of the modulo-indexed loop. -/
theorem moduloStep_of_lt (S : StateArray) {i : Nat} (hi : i < 312) :
    moduloStep i S = some (S.set i
      (S[(i + 156) % 312]'(Nat.mod_lt _ (by decide)) ^^^
        mix S[i] (S[(i + 1) % 312]'(Nat.mod_lt _ (by decide))))) := by
  simp [moduloStep, N, M, readWord_of_lt _ hi, writeWord_of_lt _ _ hi,
    readWord_of_lt _ (Nat.mod_lt _ (by decide : 0 < 312))]

/-! ### Pass 1 -/

/-- What pass 1 has made of `S` before round `i`: the words below `i` are new, the carry is the old `S[i]`. -/
structure Pass1Inv (S : StateArray) (i : Nat) (t : Twist) : Prop where
  carry : ∀ h : i < 312, t.carry = S[i]
  words : ∀ (j : Nat) (hj : j < 312),
    t.S[j] = if h : j < i ∧ j < 156 then S[j + 156]'(by omega) ^^^ mix S[j] (S[j + 1]'(by omega)) else S[j]

theorem pass1Step_keeps {S : StateArray} {i : Nat} {t : Twist} (hi : i ≤ 155) (h : Pass1Inv S i t) :
    ∃ u, pass1Step i t = some u ∧ Pass1Inv S (i + 1) u := by
  obtain ⟨hc, hS⟩ := h
  refine ⟨_, twistStep_of_lt t (by simp only [M]; omega) (by omega), ?_, ?_⟩
  · intro h
    simp only
    rw [hS (i + 1) (by omega), dif_neg (by omega)]
  · intro j hj
    simp only [M]
    rw [Vector.getElem_set]
    split
    · subst j
      rw [dif_pos (by omega), hc (by omega), hS (i + 156) (by omega), hS (i + 1) (by omega),
        dif_neg (by omega), dif_neg (by omega)]
    · rw [hS j hj]
      by_cases hji : j < i ∧ j < 156
      · rw [dif_pos hji, dif_pos (by omega)]
      · rw [dif_neg hji, dif_neg (by omega)]

/-- R84: pass 1 fails no index check; it makes words 0 to 155 new and leaves the old `S[156]` in the carry. -/
theorem pass1_spec (S : StateArray) :
    ∃ t, forTo 0 (M - 1) pass1Step ⟨S, S[0]⟩ = some t ∧ t.carry = S[156] ∧
      ∀ (j : Nat) (hj : j < 312),
        t.S[j] = if h : j < 156 then S[j + 156]'(by omega) ^^^ mix S[j] (S[j + 1]'(by omega)) else S[j] := by
  obtain ⟨t, ht, hP⟩ := forTo_spec (body := pass1Step) (Pass1Inv S) 0 (M - 1) ⟨S, S[0]⟩ (by decide)
    ⟨fun _ => rfl, fun j _ => by rw [dif_neg (by omega)]⟩
    fun i u _ hi h => pass1Step_keeps (by simpa only [M] using hi) h
  refine ⟨t, ht, hP.carry (by decide), fun j hj => ?_⟩
  rw [hP.words j hj]
  by_cases hji : j < 156
  · rw [dif_pos ⟨hji, hji⟩, dif_pos hji]
  · rw [dif_neg (fun h => hji h.2), dif_neg hji]

/-! ### Pass 2 -/

/-- What pass 2 has made of the array `T` that pass 1 left of `S`, before round `i`. -/
structure Pass2Inv (S T : StateArray) (i : Nat) (t : Twist) : Prop where
  carry : ∀ h : i < 312, t.carry = S[i]
  words : ∀ (j : Nat) (hj : j < 312),
    t.S[j] = if h : 156 ≤ j ∧ j < i ∧ j < 311
      then T[j - 156]'(by omega) ^^^ mix S[j] (S[j + 1]'(by omega)) else T[j]

theorem pass2Step_keeps {S T : StateArray} (hT : ∀ (j : Nat) (hj : j < 312), 156 ≤ j → T[j] = S[j])
    {i : Nat} {t : Twist} (h0 : 156 ≤ i) (hi : i ≤ 310) (h : Pass2Inv S T i t) :
    ∃ u, pass2Step i t = some u ∧ Pass2Inv S T (i + 1) u := by
  obtain ⟨hc, hS⟩ := h
  refine ⟨_, twistStep_of_lt t (by simp only [M]; omega) (by omega), ?_, ?_⟩
  · intro h
    simp only
    rw [hS (i + 1) (by omega), dif_neg (by omega), hT _ _ (by omega)]
  · intro j hj
    simp only [M]
    rw [Vector.getElem_set]
    split
    · subst j
      rw [dif_pos (by omega), hc (by omega), hS (i - 156) (by omega), hS (i + 1) (by omega),
        dif_neg (by omega), dif_neg (by omega), hT (i + 1) (by omega) (by omega)]
    · rw [hS j hj]
      by_cases hji : 156 ≤ j ∧ j < i ∧ j < 311
      · rw [dif_pos hji, dif_pos (by omega)]
      · rw [dif_neg hji, dif_neg (by omega)]

/-- R86: pass 2 fails no index check; it makes words 156 to 310 new, from the new words below 155, and leaves
the old `S[311]` in the carry. -/
theorem pass2_spec {S T : StateArray} {c : Word} (hc : c = S[156])
    (hT : ∀ (j : Nat) (hj : j < 312), 156 ≤ j → T[j] = S[j]) :
    ∃ t, forTo M (N - 2) pass2Step ⟨T, c⟩ = some t ∧ t.carry = S[311] ∧
      ∀ (j : Nat) (hj : j < 312),
        t.S[j] = if h : 156 ≤ j ∧ j < 311
          then T[j - 156]'(by omega) ^^^ mix S[j] (S[j + 1]'(by omega)) else T[j] := by
  obtain ⟨t, ht, hP⟩ := forTo_spec (body := pass2Step) (Pass2Inv S T) M (N - 2) ⟨T, c⟩ (by decide)
    ⟨fun _ => hc, fun j _ => by rw [dif_neg (by simp only [M]; omega)]⟩
    fun i u h0 hi h => pass2Step_keeps hT h0 hi h
  refine ⟨t, ht, hP.carry (by decide), fun j hj => ?_⟩
  rw [hP.words j hj]
  by_cases hji : 156 ≤ j ∧ j < 311
  · rw [dif_pos ⟨hji.1, hji.2, hji.2⟩, dif_pos hji]
  · rw [dif_neg (fun h => hji ⟨h.1, h.2.2⟩), dif_neg hji]

/-! ### The final step and the whole -/

/-- R88: the final step fails no index check. -/
theorem finalStep_eq (src : WrapBSource) (t : Twist) :
    finalStep src t
      = some (t.S.set 311 (t.S[155] ^^^ mix t.carry (if src = .self then t.S[311] else t.S[0]))) := by
  have hb : wrapOperand src t.S = some (if src = .self then t.S[311] else t.S[0]) := by
    cases src
    · exact readWord_of_lt t.S (by decide : 311 < 312)
    · exact readWord_of_lt t.S (by decide : 0 < 312)
  have hf : readWord t.S (N - 1 - M) = some t.S[155] := readWord_of_lt t.S (by decide : 155 < 312)
  simp only [finalStep, hb, hf, Option.bind_eq_bind, Option.bind_some]
  exact writeWord_of_lt t.S _ (by decide : 311 < 312)

/-- R83, as a chain: rewrite with this rather than unfold `regenWith`. -/
theorem regenWith_eq (src : WrapBSource) (S : StateArray) :
    regenWith src S = (readWord S 0).bind fun carry =>
      (forTo 0 (M - 1) pass1Step ⟨S, carry⟩).bind fun t =>
        (forTo M (N - 2) pass2Step t).bind fun t => finalStep src t := rfl

/-- `REGEN` from what its two passes answer. -/
theorem regenWith_of_passes (src : WrapBSource) {S : StateArray} {t u : Twist}
    (h1 : forTo 0 (M - 1) pass1Step ⟨S, S[0]⟩ = some t) (h2 : forTo M (N - 2) pass2Step t = some u) :
    regenWith src S = finalStep src u := by
  have h0 : readWord S 0 = some S[0] := readWord_of_lt S (by decide)
  rw [regenWith_eq, h0, Option.bind_some, h1, Option.bind_some, h2, Option.bind_some]

end Sys2Proof.Machine
end

