-- ==== Sys2Proof/Laws/Run.lean ====
section
/-! SUPPORT. One step at the head of a run. -/

namespace Sys2Proof.Machine

/-- A run whose first step answers a next state goes on from there. -/
theorem run_succ_of_next (n : Nat) {s t : State} (h : step s = .next t) :
    Sys2Proof.core.run (n + 1) s = Sys2Proof.core.run n t := by
  have h' : Sys2Proof.core.step s = .next t := h
  simp only [Host.Core.run, h']

/-- A run whose first step is refused ends there. -/
theorem run_succ_of_refused (n : Nat) {s : State} {r : Refusal} (h : step s = .refused r) :
    Sys2Proof.core.run (n + 1) s = .refused r := by
  have h' : Sys2Proof.core.step s = .refused r := h
  simp only [Host.Core.run, h']

end Sys2Proof.Machine
end

