-- ==== Sys2Proof/Tests/Slice0.lean ====
section
/-! SUPPORT. The model's own tests. Expected values come from spec/95_test_vectors.md (named by their ids) and
from words written out by hand from spec/30_encoding.md R55 and R56. The theorems named `witness_…` show
states and operands that meet the hypotheses of the statements in Certificates/Slice0/Obligations.lean. -/

namespace Sys2Proof.Machine.Test

/-! ### Well-formedness: each check refuses an ill-formed line -/

theorem test_wf_init_seed_too_wide : AsmLine.wf (.init (2 ^ 64) 0) = false := by decide
theorem test_wf_init_y_too_wide : AsmLine.wf (.init 0 (2 ^ 64)) = false := by decide
theorem test_wf_initSeed_too_wide : AsmLine.wf (.initSeed (2 ^ 64)) = false := by decide
theorem test_wf_nextTimes_zero : AsmLine.wf (.nextTimes 0) = false := by decide
theorem test_wf_raw_short : AsmLine.wf (.raw (List.replicate 33 0)) = false := by decide
theorem test_wf_largest_literals : AsmLine.wf (.init (2 ^ 64 - 1) (2 ^ 64 - 1)) = true := by decide
theorem test_wf_every_command : Instr.wf (.init 0xffffffffffffffff 0) = true ∧ Instr.wf .next = true := by
  decide

/-! ### Decoding: words written bit by bit -/

/-- `OP` = 0000 0001, `A` = 1, `B` with only bit 63 set. -/
theorem test_decode_init :
    decode 0b0000000100000000000000000000000000000000000000000000000000000000000000011000000000000000000000000000000000000000000000000000000000000000#136
      = .command (.init 1 0x8000000000000000) := by decide

/-- `OP` = 0000 0010, with nonzero operand fields (V-NEXT-3). -/
theorem test_decode_next :
    decode 0b0000001011111111111111111111111111111111111111111111111111111111111111110001001000110100010101100111100000010010001101000101011001111000#136
      = .command .next := by decide

/-- The reserved opcodes next to the two assigned ones, and the last (R59). -/
theorem test_decode_reserved :
    decode 0x00ffffffffffffffffffffffffffffffff#136 = .reservedOpcode 0x00#8 ∧
    decode 0x0300000000000000000000000000000000#136 = .reservedOpcode 0x03#8 ∧
    decode 0xff00000000000000000000000000000000#136 = .reservedOpcode 0xff#8 := by decide

theorem test_encode :
    encode (.init 5 3) = 0x0100000000000000050000000000000003#136 ∧
    encode .next = 0x0200000000000000000000000000000000#136 := by decide

theorem test_decodeTableWord :
    decodeTableWord 136 0x0100000000000015710000000000000000 = some (.init 5489 0) ∧
    decodeTableWord 136 0x0200000000000000000000000000000000 = some .next ∧
    decodeTableWord 136 0x0300000000000000000000000000000000 = none := by decide

/-- Two lines with a comment, a pseudo-instruction and small letters (R64 to R66). -/
theorem test_assemble_text :
    assembleText "init 0x5, 3 ; seed\nNEXT*2\n".toList
      = some [0x0100000000000000050000000000000003#136, 0x0200000000000000000000000000000000#136,
          0x0200000000000000000000000000000000#136] := by decide

theorem test_assemble_refuses :
    assembleText "INIT 18446744073709551616".toList = none ∧
    assembleText "NEXT 1".toList = none ∧
    assembleText "NEXT*0".toList = none := by decide

/-! ### INIT -/

/-- V-INIT-1 and V-INIT-4, word 1: the seed's low and high bits take part. -/
theorem test_seedStep :
    seedStep 1 0x1571 = 0xb5347f47116bd3de ∧ seedStep 1 0xffffffffffffffff = 0x9eb82f4acdaa034d := by
  decide

/-- V-INIT-5: the last word, which depends on every step. -/
theorem test_init_last_word : (seedArray (5 ^^^ 3))[311] = 0x17d3b6a72eab92db := by decide +kernel

/-! ### REGEN -/

/-- V-MIX-4, V-MIX-7, V-MIX-8, V-MIX-9 and V-MIX-10. -/
theorem test_mix :
    mix 0 0xffffffffffffffff = 0xb5026f5a9699e616 ∧
    mix 0x80000000 0 = 0x40000000 ∧ mix 0x7fffffff 0 = 0 ∧ mix 0 0x80000000 = 0 ∧
    mix 0x0123456789abcdef 0xfedcba9876543210 = 0x0091a2b3fb2a1908 := by decide

/-- V-REGEN-5: a word of pass 1, and the first word of pass 2, which feeds back a new word. -/
theorem test_regen_passes :
    (regenWith .self (seedArray 5489)).map (fun A => (A[155], A[156]))
      = some (0x23b9c89211c7db80, 0x367692559aeadca8) := by decide +kernel

/-- V-REGEN-4: the final step under both readings, from the array that the passes leave. -/
theorem test_regen_final_step :
    let t : Twist := ⟨((Vector.replicate 312 0).set 155 1).set 311 1, 1⟩
    (finalStep .self t).map (fun A => A[311]) = some 0xb5026f5aa96619e8 ∧
    (finalStep .state0 t).map (fun A => A[311]) = some 1 := by decide +kernel

/-! ### NEXT -/

/-- V-TEMP-2 to V-TEMP-5. -/
theorem test_temper :
    temper 1 = 0x0040002000020801 ∧ temper 0xffffffffffffffff = 0x7bfeeeefefa1d577 ∧
    temper 0x8000000000000000 = 0x8000000400100000 ∧
    temper 0x0123456789abcdef = 0x2254da7001198660 := by decide

/-- An outcome's next state, read by `f`. -/
def onNext {α : Type} (f : State → α) : Host.Outcome State Fault Refusal → Option α
  | .next s => some (f s)
  | .fault _ => none
  | .refused _ => none

/-- The state that `INIT 5489` leaves, its response taken. -/
def seeded : State :=
  { State.reset with S := seedArray 5489, cursor := 312, valid := true }

/-- V-NEXT-1: the first output and the cursor. -/
theorem test_first_output :
    onNext (fun s => (s.response, s.cursor)) (exec .next seeded)
      = some (some ⟨0x01, some 14514284786278117030⟩, 1) := by decide +kernel

/-- A `STATE0` block steps from the same word to the same first output (V-SEQ-1.1). -/
theorem test_first_output_state0 :
    onNext (fun s => (s.response, s.wrapBSource))
      (step { seeded with inputs := [.command (encode .next)], wrapBSource := .state0 })
      = some (some ⟨0x01, some 14514284786278117030⟩, .state0) := by decide +kernel

/-! ### Faults, one step each (V-FAULT-1, V-FAULT-2, V-FAULT-4, V-FAULT-5) -/

/-- `s` with the host offering `w` and doing nothing after it. -/
def offering (w : CommandWord) (s : State) : State := { s with inputs := [.command w] }

theorem test_next_after_reset :
    onNext (fun s => (s.response, s.status)) (step (offering (encode .next) State.reset))
      = some (some ⟨0x0a, none⟩, 0x0a) := by decide

theorem test_illegal_after_init :
    onNext (fun s => (s.response, s.cursor, s.valid))
      (step (offering 0x0300000000000000000000000000000000#136 seeded))
      = some (some ⟨0x07, none⟩, 312, true) := by decide

theorem test_illegal_before_not_initialized :
    onNext (fun s => s.response) (step (offering 0xff00000000000000000000000000000000#136 State.reset))
      = some (some ⟨0x06, none⟩) := by decide

/-- A block halted by a reserved opcode. -/
def halted : State := { seeded with fault := true, cause := .illegalCommand }

theorem test_init_while_halted :
    onNext (fun s => (s.response, s.S[0], s.cursor)) (step (offering (encode (.init 1 0)) halted))
      = some (some ⟨0x07, none⟩, 5489, 312) := by decide

/-- V-FAULT-6: the reset that leaves the halted state. -/
theorem test_reset_while_halted :
    onNext (fun s => s.status) (step { halted with inputs := [.reset] }) = some 0x00 := by decide

/-- The host's placing of a table word: `INIT` and `NEXT` as the first command after reset. -/
theorem test_withFetchWord :
    onNext (fun s => s.status) (step (State.reset.withFetchWord 136 0x0100000000000015710000000000000000))
      = some 0x01 ∧
    onNext (fun s => s.status) (step (State.reset.withFetchWord 136 0x0200000000000000000000000000000000))
      = some 0x0a := by decide

/-! ### Witnesses of the statements' hypotheses -/

/-- A block with an array of ones, ready to answer. -/
def ready (c : Cursor) : State :=
  { State.reset with S := Vector.replicate 312 1, cursor := c, valid := true }

/-- A block whose response stands. -/
def answered : State := { ready 5 with response := some ⟨0x01, some 7⟩ }

theorem witness_ready_legal : (ready 312).Legal := by
  constructor <;> simp [ready, State.reset]

theorem witness_answered_legal : answered.Legal := by
  constructor <;> simp [answered, ready, State.reset, State.status]
  decide

theorem witness_halted_legal : halted.Legal := by
  constructor <;> simp [halted, seeded, State.reset]

/-- DecodeEncodeAgree: each direction of each clause. -/
theorem witness_decode_cases :
    decode (encode (.init 1 2)) = .command (.init 1 2) ∧
    decode (commandWord 0x02#8 7 8) = .command .next ∧
    decode (commandWord 0x03#8 7 8) = .reservedOpcode 0x03#8 ∧
    decode (commandWord 0x00#8 7 8) = .reservedOpcode 0x00#8 := by decide

/-- InitTakesOperandsWhole. -/
theorem witness_init_opcode : (encode (.init 5 3)).extractLsb' 128 8 = 0x01#8 := by decide

/-- AssemblerRefusesWideLiterals, PseudoInstructionsExpand and RawLineEmitsItsDigits, at their boundaries. -/
theorem witness_assembler_bounds :
    (2 ^ 64 - 1 < 2 ^ 64 ∧ 0 < 2 ^ 64) ∧ ¬ (2 ^ 64 < 2 ^ 64 ∧ 0 < 2 ^ 64) ∧ 1 ≤ 1 ∧
    (List.replicate 34 (0 : BitVec 4)).length = 34 ∧ (List.replicate 35 (0 : BitVec 4)).length ≠ 34 ∧
    (List.replicate 34 (0 : BitVec 4))[33]? = some 0 := by decide

/-- ResponseWordLayout. -/
theorem witness_response_data : (Response.mk 0x01 (some 7)).data = some 7 := rfl

/-- StepRunsDecodedCommand. -/
theorem witness_step_runs :
    (offering (encode .next) (ready 3)).inputs = .command (encode .next) :: [] ∧
    (offering (encode .next) (ready 3)).response = none ∧
    decode (encode .next) = .command .next := by decide

/-- PlacedWordRunsNext. -/
theorem witness_placed_word :
    decodeTableWord 136 0x0200000000000000000000000000000000 = some .next := by decide

/-- IdleBlockKeepsItsState. -/
theorem witness_idle : (ready 3).inputs = [] := rfl

/-- HandshakeIsKept: a take, an offer and an offer with reset, while a response stands. -/
theorem witness_handshake :
    { answered with inputs := [.takeResponse] }.inputs = .takeResponse :: [] ∧
    (offering (encode .next) answered).inputs = .command (encode .next) :: [] ∧
    { answered with inputs := [.resetDuring 0] }.inputs = .resetDuring 0 :: [] ∧
    answered.response = some ⟨0x01, some 7⟩ := by decide

/-- ResetEventClearsStatus: a reset between commands and one during a command. -/
theorem witness_reset_events :
    { answered with inputs := [.reset] }.inputs = .reset :: [] ∧
    { ready 3 with inputs := [.resetDuring 0] }.inputs = .resetDuring 0 :: [] ∧
    (ready 3).response = none := by decide

/-- IllegalCommandFaults, at the opcodes next to the assigned ones. -/
theorem witness_illegal :
    (offering (commandWord 0x00#8 0 0) (ready 3)).response = none ∧
    (offering (commandWord 0x00#8 0 0) (ready 3)).fault = false ∧
    (commandWord 0x00#8 0 0).extractLsb' 128 8 ≠ 0x01#8 ∧
    (commandWord 0x00#8 0 0).extractLsb' 128 8 ≠ 0x02#8 ∧
    (commandWord 0x03#8 0 0).extractLsb' 128 8 ≠ 0x01#8 ∧
    (commandWord 0x03#8 0 0).extractLsb' 128 8 ≠ 0x02#8 := by decide

/-- NextBeforeInitFaults. -/
theorem witness_not_initialized : State.reset.fault = false ∧ State.reset.valid = false := by decide

/-- HaltedBlockOnlyAnswers: a halted block with a command offered, and one that steps. -/
theorem witness_halted :
    (offering (encode .next) halted).fault = true ∧ (offering (encode .next) halted).response = none ∧
    step halted = .next halted := ⟨rfl, rfl, rfl⟩

/-- FaultPriority: a state for each condition of R122 that can hold, and one for none. -/
theorem witness_priority :
    halted.fault = true ∧ (ready 3).fault = false ∧
    ((commandWord 0x04#8 0 0).extractLsb' 128 8 ≠ 0x01#8 ∧
      (commandWord 0x04#8 0 0).extractLsb' 128 8 ≠ 0x02#8) ∧
    ((encode .next).extractLsb' 128 8 = 0x02#8 ∧ State.reset.valid = false) ∧ (ready 3).valid = true := by
  decide

/-- InitFillsStateArray, CursorStaysInRange, InitOfEqualSeeds and InitDependsOnXorAlone: two blocks with different
pasts, and equal exclusive-ors. -/
theorem witness_init :
    State.reset.fault = false ∧ (ready 3).fault = false ∧ (ready 3).cause = .none ∧
    (5 : Word) ^^^ 3 = 6 ^^^ 0 := by decide

/-- MixProperties: operands that differ only in the bits `mix` ignores. -/
theorem witness_mix_ignored :
    (∀ k, 31 ≤ k → k < 64 → (0x7fffffff : Word).getLsbD k = (0 : Word).getLsbD k) ∧
    (∀ k, k < 31 → (0x80000000 : Word).getLsbD k = (0 : Word).getLsbD k) ∧
    (0x7fffffff : Word) ≠ 0 := by
  refine ⟨fun k h1 h2 => ?_, fun k h => ?_, by decide⟩
  · have hb : ∀ k, k < 64 → 31 ≤ k → (0x7fffffff : Word).getLsbD k = (0 : Word).getLsbD k := by decide
    exact hb k h2 h1
  · have hb : ∀ k, k < 31 → (0x80000000 : Word).getLsbD k = (0 : Word).getLsbD k := by decide
    exact hb k h

/-- ReadingsDifferInLastWordOnly: V-REGEN-4's array, whose new word 0 is 0. -/
theorem witness_readings_differ :
    (regenWith .state0 ((Vector.replicate 312 (0 : Word)).set 311 1)).map (fun B => B[0].extractLsb' 0 31)
      = some 0 ∧
    ((Vector.replicate 312 (0 : Word)).set 311 1)[311].extractLsb' 0 31 ≠ 0 := by decide +kernel

/-- NextReadsAtCursor and NextRefillsExhaustedArray, at the two ends of each range. -/
theorem witness_next_ranges :
    (ready 0).cursor.toNat < 312 ∧ (ready 311).cursor.toNat < 312 ∧
    312 ≤ (ready 312).cursor.toNat ∧ 312 ≤ (ready 511).cursor.toNat ∧
    (ready 312).fault = false ∧ (ready 312).valid = true ∧ (ready 312).cause = .none := by decide

/-- InvariantViolationUnreachable. -/
theorem witness_no_violation : (ready 511).cause ≠ .invariantViolation := by decide

/-- CommandFrame: an `INIT` that changes `VALID`, `S` and `cursor`; a `NEXT` that changes `FAULT` and `CAUSE`; a
`NEXT` that changes `S` and `cursor`. -/
theorem witness_command_changes :
    onNext (fun t => (t.valid, t.S[0], t.cursor)) (exec (.init 5 3) State.reset) = some (true, 6, 312) ∧
    (State.reset.valid, State.reset.S[0], State.reset.cursor) = (false, 0, 0) ∧
    onNext (fun t => (t.fault, t.cause)) (exec .next State.reset) = some (true, .notInitialized) ∧
    (State.reset.fault, State.reset.cause) = (false, .none) ∧
    onNext (fun t => (t.S[0], t.cursor)) (exec .next (ready 312))
      = some (1 ^^^ 0xb5026f5aa96619e9, 1) ∧
    ((ready 312).S[0], (ready 312).cursor) = (1, 312) := by decide +kernel

/-- CommandFrame: `exec` answers a next state. -/
theorem witness_command_frame : exec .next halted = .next (State.respond none halted) := rfl

/-- StepKeepsLegal: a legal state that steps. -/
theorem witness_legal_step : (ready 312).Legal ∧ step (ready 312) = .next (ready 312) :=
  ⟨witness_ready_legal, rfl⟩

/-- StepKeepsAgreement: two different states that agree, `S` and `cursor` differing while `VALID` = 0. -/
theorem witness_agreement :
    State.reset.Agrees { State.reset with cursor := 9 } ∧
    State.reset.cursor ≠ ({ State.reset with cursor := 9 } : State).cursor :=
  ⟨⟨rfl, rfl, rfl, rfl, rfl, rfl, fun _ => rfl, fun h => absurd h (by decide)⟩, by decide⟩

/-- FreshGeneratorsAnswerAlike: two legal blocks with different pasts under one host. -/
theorem witness_fresh_generators :
    (offering (encode (.init 5 3)) (ready 312)).Legal ∧ (offering (encode (.init 5 3)) State.reset).Legal ∧
    (offering (encode (.init 5 3)) (ready 312)).fault = false ∧
    (offering (encode (.init 5 3)) State.reset).fault = false ∧
    (offering (encode (.init 5 3)) (ready 312)).response = none ∧
    (offering (encode (.init 5 3)) State.reset).response = none ∧
    (offering (encode (.init 5 3)) State.reset).inputs
      = (offering (encode (.init 5 3)) (ready 312)).inputs ∧
    (offering (encode (.init 5 3)) State.reset).wrapBSource
      = (offering (encode (.init 5 3)) (ready 312)).wrapBSource := by
  refine ⟨?_, ?_, rfl, rfl, rfl, rfl, rfl, rfl⟩ <;> constructor <;> simp [offering, ready, State.reset]

/-- WrapBSourceIsFixed: a `STATE0` block that steps. -/
theorem witness_parameter_step :
    step { ready 3 with wrapBSource := .state0 } = .next { ready 3 with wrapBSource := .state0 } := rfl

/-- EitherReadingRuns. -/
theorem witness_either_reading :
    let s : State := { ready 312 with S := (Vector.replicate 312 0).set 311 1 }
    s.fault = false ∧ s.valid = true ∧ 312 ≤ s.cursor.toNat := by decide

/-- OutputSequence: a host that seeds the block and asks for two words. -/
theorem witness_output_sequence :
    let s : State :=
      { State.reset with inputs := hostScript (encode (.init 5 3) :: List.replicate 2 (encode .next)) ++ [] }
    s.fault = false ∧ s.cause = .none ∧ s.response = none ∧
      s.inputs = hostScript (encode (.init 5 3) :: List.replicate (1 + 1) (encode .next)) ++ [] := by decide

/-- FirstEpochSameUnderBothReadings, at its last output. -/
theorem witness_first_epoch : State.reset.fault = false ∧ 310 ≤ 310 := by decide

end Sys2Proof.Machine.Test
end

/-! PROOF. The encoding: the decoder read by the fields of a word, what a decoded word performs, and the
statements about them (spec/30_encoding.md R55 to R59, R64 to R66, R119). -/

namespace Sys2Proof.Machine

/-! ### The fields of a word -/

/-- R55: a word is determined by its three fields. -/
theorem eq_commandWord_iff {w : CommandWord} {op : BitVec 8} {a b : Word} :
    w = commandWord op a b ↔ opField w = op ∧ aField w = a ∧ bField w = b := by
  constructor
  · rintro rfl
    simp
  · rintro ⟨rfl, rfl, rfl⟩
    exact (commandWord_fields w).symm

/-- R55: the words with a given opcode are those built with it from some operand fields. -/
theorem exists_eq_commandWord_iff {w : CommandWord} {op : BitVec 8} :
    (∃ a b : Word, w = commandWord op a b) ↔ opField w = op := by
  simp [eq_commandWord_iff]

theorem aField_getLsbD (w : CommandWord) {k : Nat} (hk : k < 64) :
    (aField w).getLsbD k = w.getLsbD (64 + k) := by
  simp [aField, hk]

theorem bField_getLsbD (w : CommandWord) {k : Nat} (hk : k < 64) :
    (bField w).getLsbD k = w.getLsbD k := by
  simp [bField, hk]

/-! ### The decoder, by the opcode alone (R56) -/

/-- What a word decodes to, with the condition on its opcode that selects it. -/
theorem decode_cases (w : CommandWord) :
    (opField w = opInit ∧ decode w = .command (.init (aField w) (bField w))) ∨
    (opField w = opNext ∧ decode w = .command .next) ∨
    (opField w ≠ opInit ∧ opField w ≠ opNext ∧ decode w = .reservedOpcode (opField w)) := by
  by_cases hi : opField w = opInit
  · exact .inl ⟨hi, decode_of_opInit hi⟩
  · by_cases hn : opField w = opNext
    · exact .inr (.inl ⟨hn, decode_of_opNext hn⟩)
    · exact .inr (.inr ⟨hi, hn, decode_of_reserved hi hn⟩)

theorem decode_eq_init_iff {w : CommandWord} {seed y : Word} :
    decode w = .command (.init seed y) ↔ opField w = opInit ∧ aField w = seed ∧ bField w = y := by
  rcases decode_cases w with ⟨hop, hd⟩ | ⟨hop, hd⟩ | ⟨hi, -, hd⟩
  · simp [hd, hop]
  · simp [hd, hop, opInit_ne_opNext.symm]
  · simp [hd, hi]

theorem decode_eq_next_iff {w : CommandWord} : decode w = .command .next ↔ opField w = opNext := by
  rcases decode_cases w with ⟨hop, hd⟩ | ⟨hop, hd⟩ | ⟨-, hn, hd⟩
  · simp [hd, hop, opInit_ne_opNext]
  · simp [hd, hop]
  · simp [hd, hn]

theorem decode_eq_reserved_iff {w : CommandWord} {op : BitVec 8} :
    decode w = .reservedOpcode op ↔ op ≠ opInit ∧ op ≠ opNext ∧ opField w = op := by
  rcases decode_cases w with ⟨hop, hd⟩ | ⟨hop, hd⟩ | ⟨hi, hn, hd⟩
  · simp only [hd, hop, reduceCtorEq, false_iff]
    exact fun ⟨hne, _, heq⟩ => hne heq.symm
  · simp only [hd, hop, reduceCtorEq, false_iff]
    exact fun ⟨_, hne, heq⟩ => hne heq.symm
  · rw [hd, Decoded.reservedOpcode.injEq]
    constructor
    · rintro rfl
      exact ⟨hi, hn, rfl⟩
    · exact fun h => h.2.2

/-- R55 to R58: a command is what its encoding decodes to. -/
@[simp] theorem decode_encode (i : Instr) : decode (encode i) = .command i := by
  cases i with
  | init seed y => simp [decode_eq_init_iff, encode]
  | next => simp [decode_eq_next_iff, encode]

/-! ### Performing a decoded word (R63) -/

theorem performWord_of_command {w : CommandWord} {i : Instr} (h : decode w = .command i) (s : State) :
    performWord w s = exec i s := by
  simp [performWord, h]

theorem performWord_of_reserved {w : CommandWord} {op : BitVec 8} (h : decode w = .reservedOpcode op)
    (s : State) : performWord w s = .next (performIllegal s) := by
  simp [performWord, h]

/-- R119: a block that has not faulted takes the fault. -/
theorem performIllegal_of_running {s : State} (h : s.fault = false) :
    performIllegal s = takeFault .illegalCommand s :=
  unlessHalted_of_running h

/-- R117: the status byte of `ILLEGAL_COMMAND`. -/
theorem statusByte_illegalCommand (valid : Bool) :
    statusByte .illegalCommand true valid = if valid then 0x07#8 else 0x06#8 := by
  cases valid <;> decide

/-! ### The assembler (R64 to R66) -/

theorem assembleLine_of_wf {l : AsmLine} (h : l.wf = true) : assembleLine l = some (expandLine l) := by
  simp [assembleLine, h]

theorem assembleLine_of_not_wf {l : AsmLine} (h : l.wf = false) : assembleLine l = none := by
  simp [assembleLine, h]

/-- R64: the word of `NEXT`, its operand fields zero. -/
theorem encode_next_eq : encode .next = 0x0200000000000000000000000000000000#136 := by decide

/-- R65: the operand that is left out is 0, in the range check as in the words. -/
theorem assembleLine_initSeed (seed : Nat) : assembleLine (.initSeed seed) = assembleLine (.init seed 0) := by
  have hwf : (AsmLine.initSeed seed).wf = (AsmLine.init seed 0).wf := by
    simp [AsmLine.wf, literalFits]
  have hexpand : expandLine (.initSeed seed) = expandLine (.init seed 0) := rfl
  rw [assembleLine, assembleLine, hwf, hexpand]

/-- R66: `k` copies of `NEXT`'s word, for `k` at least 1. -/
theorem assembleLine_nextTimes {k : Nat} (hk : 1 ≤ k) :
    assembleLine (.nextTimes k) = some (List.replicate k (encode .next)) :=
  assembleLine_of_wf (decide_eq_true hk)

/-! ### The statements -/

/-- Settles O1: each clause is the decoder's condition on the opcode, said of words built from fields. -/
theorem decodeEncodeAgree : Obligations.DecodeEncodeAgree := by
  refine ⟨fun i _ => decode_encode i, fun w seed y => ?_, fun w => ?_, fun w op => ?_⟩
  · rw [decode_eq_init_iff, encode, eq_commandWord_iff]
  · rw [decode_eq_next_iff, exists_eq_commandWord_iff, opNext]
  · rw [decode_eq_reserved_iff, exists_eq_commandWord_iff, opInit, opNext]

/-- Settles O2: the operands are the fields `A` and `B`. -/
theorem initTakesOperandsWhole : Obligations.InitTakesOperandsWhole := fun w hop =>
  ⟨aField w, bField w, decode_of_opInit hop, fun _ => aField_getLsbD w, fun _ => bField_getLsbD w⟩

/-- Settles O3: both words decode to `NEXT`, which carries no operands. -/
theorem nextIgnoresOperandFields : Obligations.NextIgnoresOperandFields := by
  have hdecode : ∀ a b : Word, decode (commandWord opNext a b) = .command .next := fun a b =>
    decode_of_opNext (opField_commandWord opNext a b)
  refine ⟨fun a b a' b' s => ⟨hdecode a b, ?_⟩, assembleLine_of_wf rfl⟩
  exact (performWord_of_command (hdecode a b) s).trans (performWord_of_command (hdecode a' b') s).symm

/-- Settles O6: the expansions of `INIT <seed>` and `NEXT*<k>`, and the two refusals. -/
theorem pseudoInstructionsExpand : Obligations.PseudoInstructionsExpand := by
  refine ⟨assembleLine_initSeed, fun k hk => ?_, assembleLine_of_not_wf rfl, by decide⟩
  rw [assembleLine_nextTimes hk, encode_next_eq]

/-- Settles O19: the word is accepted, decodes as reserved, and the running block takes the fault. -/
theorem illegalCommandFaults : Obligations.IllegalCommandFaults := by
  intro s w rest hin hresp hfault hinit hnext
  rw [step_command hin hresp, performWord_of_reserved (decode_of_reserved hinit hnext),
    performIllegal_of_running (s := { s with inputs := rest }) hfault, ← statusByte_illegalCommand]
  rfl

end Sys2Proof.Machine

/-! PROOF. `INIT`: what it does to a block that has not faulted, and the statement about the state array it
leaves (spec/40_init.md R70 to R74, R78). -/

namespace Sys2Proof.Machine

/-- R70: a block that has not faulted performs `INIT`. -/
theorem exec_init_of_running {s : State} (h : s.fault = false) (seed y : Word) :
    exec (.init seed y) s = .next (initialise seed y s) := by
  rw [exec_init, unlessHalted_of_running h]

/-- R70, R78: every field `INIT` writes on a block that has not faulted, the response's `STATUS` being that
after `VALID` is set. -/
theorem initialise_of_running {s : State} (h : s.fault = false) (seed y : Word) :
    initialise seed y s =
      { s with
        S := seedArray (seed ^^^ y)
        cursor := 312
        valid := true
        response := some ⟨statusByte s.cause false true, some 0⟩ } := by
  simp only [initialise, State.respond, State.status, h]

/-- R78: the status byte of an initialised block without a fault. -/
theorem statusByte_initialised : statusByte .none false true = 0x01#8 := by decide

/-- R72: the recurrence with its multiplier written out. -/
theorem seedStep_eq (i : Nat) (x : Word) :
    seedStep i x = (x ^^^ (x >>> 62)) * 6364136223846793005 + BitVec.ofNat 64 i := rfl

/-- Settles O23: the array is `seedArray` of the exclusive-or, whose words are known by its two equations. -/
theorem initFillsStateArray : Obligations.InitFillsStateArray := by
  intro seed y s hfault
  refine ⟨seedArray (seed ^^^ y), ?effect, ?status, seedArray_zero _, fun i hi => ?recurrence⟩
  case effect => rw [exec_init_of_running hfault, initialise_of_running hfault]
  case status =>
    intro hcause
    rw [hcause, statusByte_initialised]
  case recurrence => rw [seedArray_succ _ i hi, seedStep_eq]

end Sys2Proof.Machine

/-! PROOF. `REGEN`: the statement about `mix` (spec/41_regen.md R80; spec/00_scope.md R9, R10). -/

namespace Sys2Proof.Machine

/-- R80: the combined word, with the two masks of R9 written out. -/
theorem combine_eq (a b : Word) :
    combine a b = (a &&& 0xffffffff80000000) ||| (b &&& 0x000000007fffffff) := rfl

/-- R80: `mix` of the combined word, with the matrix constant of R10 written out. -/
theorem mix_eq (a b : Word) :
    mix a b = (combine a b >>> 1) ^^^ ((combine a b &&& 1) * 0xb5026f5aa96619e9) := rfl

/-- Settles O26: the combined word is `combine a b`. -/
theorem mixFormula : Obligations.MixFormula := fun a b =>
  ⟨combine a b, combine_eq a b, mix_eq a b⟩

end Sys2Proof.Machine

/-! PROOF. `NEXT`: what it does to a block that has not faulted, before an `INIT`, below the end of the array
and past it, and the statements about each (spec/42_next.md R100 to R108; spec/60_exceptions.md R117, R120). -/

namespace Sys2Proof.Machine

/-! ### The parts of `NEXT` -/

/-- R83: `REGEN` fails no index check: both passes and the final step run to their ends. -/
theorem exists_regenWith_eq (src : WrapBSource) (S : StateArray) :
    ∃ A : StateArray, regenWith src S = some A := by
  obtain ⟨t, hpass1, hcarry, hwords⟩ := pass1_spec S
  have hold : ∀ (j : Nat) (hj : j < 312), 156 ≤ j → t.S[j] = S[j] := fun j hj hge => by
    rw [hwords j hj, dif_neg (by omega)]
  obtain ⟨u, hpass2, -⟩ := pass2_spec hcarry hold
  exact ⟨_, (regenWith_of_passes src hpass1 hpass2).trans (finalStep_eq src u)⟩

/-- R107: below `N` the cursor advances without wrapping. -/
theorem toNat_cursor_succ {c : Cursor} (h : c.toNat < 312) : (c + 1).toNat = c.toNat + 1 := by
  bv_omega

/-- R117: every field a fault writes. -/
theorem takeFault_eq (c : Cause) (s : State) :
    takeFault c s =
      { s with fault := true, cause := c, response := some ⟨statusByte c true s.valid, none⟩ } := rfl

/-- R120: the status byte of `NOT_INITIALIZED`. -/
theorem statusByte_notInitialized : statusByte .notInitialized true false = 0x0a#8 := by decide

/-- R100: a block that has not faulted performs `NEXT`. -/
theorem exec_next_of_running {s : State} (h : s.fault = false) :
    exec .next s = .next (produceNext s) := by
  rw [exec_next, unlessHalted_of_running h]

/-- R102: below `N` no `REGEN` runs, and the word at the cursor is answered. -/
theorem produceNext_of_lt {s : State} (hv : s.valid = true) (h : s.cursor.toNat < 312) :
    produceNext s =
      State.respond (some (temper s.S[s.cursor.toNat])) { s with cursor := s.cursor + 1 } := by
  rw [produceNext_of_refill hv (refill_of_lt h), emitWord_of_lt s h]

/-- R101: at or above `N` the array is refilled, and the new word 0 is answered. -/
theorem produceNext_of_ge {s : State} {A : StateArray} (hv : s.valid = true)
    (h : 312 ≤ s.cursor.toNat) (hA : regenWith s.wrapBSource s.S = some A) :
    produceNext s = State.respond (some (temper A[0])) { s with S := A, cursor := 1 } := by
  rw [produceNext_of_refill hv (refill_of_ge h hA), emitWord_of_lt _ (by decide : (0 : Cursor).toNat < 312)]
  rfl

/-- R60: the response of an initialised block that has not faulted, once `NEXT` has written its storage. -/
theorem respond_of_ready {s : State} (hf : s.fault = false) (hv : s.valid = true) (d : Option Word)
    (A : StateArray) (c : Cursor) :
    State.respond d { s with S := A, cursor := c } =
      { s with S := A, cursor := c, response := some ⟨statusByte s.cause false true, d⟩ } := by
  simp only [State.respond, State.status, hf, hv]

/-! ### The statements -/

/-- Settles O35: the refill and the read after it at or above 312, and the read alone below. -/
theorem nextRefillsExhaustedArray : Obligations.NextRefillsExhaustedArray := by
  intro s hfault hvalid
  rw [exec_next_of_running hfault]
  constructor
  · intro hge
    obtain ⟨A, hA⟩ := exists_regenWith_eq s.wrapBSource s.S
    refine ⟨A, hA, ?_⟩
    rw [produceNext_of_ge hvalid hge hA, respond_of_ready hfault hvalid]
  · intro hlt
    exact ⟨_, rfl, by rw [produceNext_of_lt hvalid hlt, State.respond_S]⟩

/-- Settles O20: the fault, whose response carries `STATUS` 0x0a. -/
theorem nextBeforeInitFaults : Obligations.NextBeforeInitFaults := by
  intro s hfault hvalid
  rw [exec_next_of_running hfault, produceNext_of_invalid hvalid, takeFault_eq, hvalid,
    statusByte_notInitialized]

/-- Settles O32: the intermediate words are those that T1, T2 and T3 leave, each step by its definition. -/
theorem temperSteps : Obligations.TemperSteps := fun r =>
  ⟨temper1 r, temper2 (temper1 r), temper3 (temper2 (temper1 r)), rfl, rfl, rfl, rfl⟩

/-- Settles O34: the read below 312, and an advance that does not wrap. -/
theorem nextReadsAtCursor : Obligations.NextReadsAtCursor := by
  intro s hlt hfault hvalid
  refine ⟨_, exec_next_of_running hfault, ?effect, ?advance, ?status⟩
  case effect => rw [produceNext_of_lt hvalid hlt, respond_of_ready hfault hvalid]
  case advance => rw [produceNext_of_lt hvalid hlt, State.respond_cursor, toNat_cursor_succ hlt]
  case status =>
    intro hcause
    rw [hcause, statusByte_initialised]

end Sys2Proof.Machine

/-! PROOF. Agreement: every operation of the block takes states that the host cannot tell apart to such states,
so that whole runs from them agree, and the statement about two fresh generators (spec/10_state.md R33, R36;
spec/42_next.md R111). -/

namespace Sys2Proof.Machine

/-! ### Each operation keeps agreement -/

section
variable {s t : State}

/-- Two states that agree and are initialised differ in nothing but the model's counter of free values. -/
theorem State.Agrees.eq_of_valid (h : s.Agrees t) (hv : s.valid = true) :
    t = { s with freeDraws := t.freeDraws } := by
  obtain ⟨hvalid, hfault, hcause, hresponse, hinputs, hwrap, hS, hcursor⟩ := h
  rw [hvalid, hfault, hcause, hresponse, hinputs, hwrap, hS hv, hcursor hv]

theorem State.Agrees.status (h : s.Agrees t) : s.status = t.status := by
  rw [State.status, State.status, h.cause, h.fault, h.valid]

/-- The host's remaining events are replaced alike. -/
theorem State.Agrees.with_inputs (h : s.Agrees t) (rest : List HostEvent) :
    { s with inputs := rest }.Agrees { t with inputs := rest } :=
  { h with inputs := rfl }

theorem State.Agrees.takeResponse (h : s.Agrees t) :
    (Machine.takeResponse s).Agrees (Machine.takeResponse t) :=
  { h with response := rfl }

theorem State.Agrees.respond (h : s.Agrees t) (d : Option Word) :
    (State.respond d s).Agrees (State.respond d t) :=
  { h with response := by rw [State.respond_response, State.respond_response, h.status] }

theorem State.Agrees.takeFault (h : s.Agrees t) (c : Cause) :
    (Machine.takeFault c s).Agrees (Machine.takeFault c t) :=
  { h with
    fault := rfl
    cause := rfl
    response := by rw [takeFault_response, takeFault_response, h.valid] }

/-- A reset may leave different contents in the two blocks, but with `VALID` = 0 nothing shows them. -/
theorem State.Agrees.resetBlock (h : s.Agrees t) :
    (Machine.resetBlock s).Agrees (Machine.resetBlock t) where
  valid := rfl
  fault := rfl
  cause := rfl
  response := rfl
  inputs := h.inputs
  wrapBSource := h.wrapBSource
  S hv := absurd hv Bool.false_ne_true
  cursor hv := absurd hv Bool.false_ne_true

theorem State.Agrees.unlessHalted {perform : State → State} (h : s.Agrees t)
    (hperform : (perform s).Agrees (perform t)) :
    (Machine.unlessHalted perform s).Agrees (Machine.unlessHalted perform t) := by
  cases hf : s.fault with
  | true =>
    rw [unlessHalted_of_fault hf, unlessHalted_of_fault (h.fault ▸ hf)]
    exact h.respond none
  | false => rwa [unlessHalted_of_running hf, unlessHalted_of_running (h.fault ▸ hf)]

/-- `INIT` writes `S`, the cursor and `VALID`, so the two blocks need not have agreed on those. -/
theorem initialise_agrees (seed y : Word) (hfault : s.fault = t.fault) (hcause : s.cause = t.cause)
    (hinputs : s.inputs = t.inputs) (hwrap : s.wrapBSource = t.wrapBSource) :
    (initialise seed y s).Agrees (initialise seed y t) where
  valid := rfl
  fault := hfault
  cause := hcause
  response := by simp only [initialise, State.respond_response, State.status, hfault, hcause]
  inputs := hinputs
  wrapBSource := hwrap
  S _ := rfl
  cursor _ := rfl

/-- An uninitialised block faults without a look at its storage; an initialised one fails no index check, so
the model's counter, which alone may differ, is not read. -/
theorem State.Agrees.produceNext (h : s.Agrees t) :
    (Machine.produceNext s).Agrees (Machine.produceNext t) := by
  cases hv : s.valid with
  | false =>
    rw [produceNext_of_invalid hv, produceNext_of_invalid (h.valid ▸ hv)]
    exact h.takeFault .notInitialized
  | true =>
    have hvt : t.valid = true := h.valid ▸ hv
    rw [h.eq_of_valid hv] at hvt ⊢
    rcases Nat.lt_or_ge s.cursor.toNat 312 with hlt | hge
    · rw [produceNext_of_lt hv hlt, produceNext_of_lt hvt hlt]
      constructor <;> intros <;> rfl
    · obtain ⟨A, hA⟩ := exists_regenWith_eq s.wrapBSource s.S
      rw [produceNext_of_ge hv hge hA, produceNext_of_ge hvt hge hA]
      constructor <;> intros <;> rfl

/-! ### Each step keeps agreement -/

theorem exec_agrees (h : s.Agrees t) (i : Instr) : OutcomesAgree (exec i s) (exec i t) := by
  cases i with
  | init seed y =>
    exact h.unlessHalted (initialise_agrees seed y h.fault h.cause h.inputs h.wrapBSource)
  | next => exact h.unlessHalted h.produceNext

theorem performWord_agrees (h : s.Agrees t) (w : CommandWord) :
    OutcomesAgree (performWord w s) (performWord w t) := by
  cases hw : decode w with
  | command i =>
    rw [performWord_of_command hw, performWord_of_command hw]
    exact exec_agrees h i
  | reservedOpcode op =>
    rw [performWord_of_reserved hw, performWord_of_reserved hw]
    exact h.unlessHalted (h.takeFault .illegalCommand)

/-- Both blocks accept, or both refuse for the response that stands in both. -/
theorem acceptWord_agrees (h : s.Agrees t) {o p : Host.Outcome State Fault Refusal}
    (hop : OutcomesAgree o p) : OutcomesAgree (acceptWord s o) (acceptWord t p) := by
  unfold acceptWord
  rw [← h.response]
  cases s.response with
  | none => exact hop
  | some r => rfl

theorem handleEvent_agrees (h : s.Agrees t) (e : HostEvent) :
    OutcomesAgree (handleEvent e s) (handleEvent e t) := by
  cases e with
  | command w => exact acceptWord_agrees h (performWord_agrees h w)
  | takeResponse => exact h.takeResponse
  | reset => exact h.resetBlock
  | resetDuring w => exact acceptWord_agrees h h.resetBlock

theorem step_agrees (h : s.Agrees t) : OutcomesAgree (step s) (step t) := by
  cases hin : s.inputs with
  | nil =>
    rw [step_nil hin, step_nil (h.inputs ▸ hin)]
    exact h
  | cons e rest =>
    rw [step_cons hin, step_cons (h.inputs ▸ hin)]
    exact handleEvent_agrees (h.with_inputs rest) e

/-- Outcomes that agree are two next states that agree, or one refusal: the model has no fault of its own. -/
theorem OutcomesAgree.next_or_refused {o p : Host.Outcome State Fault Refusal} (h : OutcomesAgree o p) :
    (∃ s t, o = .next s ∧ p = .next t ∧ s.Agrees t) ∨ ∃ r, o = .refused r ∧ p = .refused r := by
  match o, p, h with
  | .next s, .next t, h => exact .inl ⟨s, t, rfl, rfl, h⟩
  | .refused r, .refused _, rfl => exact .inr ⟨r, rfl, rfl⟩

/-- Runs of equal length from states that agree have outcomes that agree. -/
theorem run_agrees (n : Nat) (h : s.Agrees t) :
    OutcomesAgree (Sys2Proof.core.run n s) (Sys2Proof.core.run n t) := by
  induction n generalizing s t with
  | zero => exact h
  | succ n ih =>
    obtain ⟨s', t', hs, ht, hagree⟩ | ⟨r, hs, ht⟩ := (step_agrees h).next_or_refused
    · rw [run_succ_of_next n hs, run_succ_of_next n ht]
      exact ih hagree
    · rw [run_succ_of_refused n hs, run_succ_of_refused n ht]
      rfl

end

/-! ### The statement -/

/-- An encoded `INIT` that the host offers to a block without a fault or a standing response. -/
theorem step_encode_init {s : State} {seed y : Word} {rest : List HostEvent}
    (hin : s.inputs = .command (encode (.init seed y)) :: rest) (hresp : s.response = none)
    (hfault : s.fault = false) :
    step s = .next (initialise seed y { s with inputs := rest }) := by
  rw [step_command hin hresp, performWord_of_command (decode_encode _)]
  exact exec_init_of_running (s := { s with inputs := rest }) hfault seed y

/-- Settles O41: the `INIT` makes the two blocks agree, and every step after it keeps them so. -/
theorem freshGeneratorsAnswerAlike : Obligations.FreshGeneratorsAnswerAlike := by
  intro seed y rest s t n hlegal hlegal' hfault hfault' hresp hresp' hin hin' hwrap
  have hcause : s.cause = t.cause :=
    (hlegal.cause_none_iff.2 hfault).trans (hlegal'.cause_none_iff.2 hfault').symm
  rw [run_succ_of_next n (step_encode_init hin hresp hfault),
    run_succ_of_next n (step_encode_init (hin'.trans hin) hresp' hfault')]
  exact run_agrees n (initialise_agrees seed y (hfault.trans hfault'.symm) hcause rfl hwrap.symm)

end Sys2Proof.Machine

/-! PROOF. The halted block: what a step of any block can do, what a word does to a block with `FAULT` = 1, and
the statement about it (spec/60_exceptions.md R118, R122, R124). -/

namespace Sys2Proof.Machine

/-! ### What a step can do -/

/-- R63: a word is accepted exactly where no response stands. -/
theorem acceptWord_eq_next_iff {s t : State} {accepted : Host.Outcome State Fault Refusal} :
    acceptWord s accepted = .next t ↔ s.response = none ∧ accepted = .next t := by
  cases hresp : s.response <;> simp [acceptWord, hresp]

/-- The block idles, or the host's earliest event happens to it; a word, or a reset during one, only where no
response stands. -/
theorem step_next_cases {s t : State} (h : step s = .next t) :
    (s.inputs = [] ∧ t = s) ∨
    (∃ w rest, s.inputs = .command w :: rest ∧ s.response = none ∧
      performWord w { s with inputs := rest } = .next t) ∨
    (∃ rest, s.inputs = .takeResponse :: rest ∧ t = takeResponse { s with inputs := rest }) ∨
    (∃ rest, s.inputs = .reset :: rest ∧ t = resetBlock { s with inputs := rest }) ∨
    (∃ w rest, s.inputs = .resetDuring w :: rest ∧ s.response = none ∧
      t = resetBlock { s with inputs := rest }) := by
  cases hin : s.inputs with
  | nil =>
    rw [step_nil hin, Host.Outcome.next.injEq] at h
    exact .inl ⟨rfl, h.symm⟩
  | cons e rest =>
    rw [step_cons hin] at h
    cases e with
    | command w =>
      obtain ⟨hresp, hperform⟩ := acceptWord_eq_next_iff.1 h
      exact .inr (.inl ⟨w, rest, rfl, hresp, hperform⟩)
    | takeResponse =>
      exact .inr (.inr (.inl ⟨rest, rfl, (Host.Outcome.next.inj h).symm⟩))
    | reset =>
      exact .inr (.inr (.inr (.inl ⟨rest, rfl, (Host.Outcome.next.inj h).symm⟩)))
    | resetDuring w =>
      obtain ⟨hresp, hreset⟩ := acceptWord_eq_next_iff.1 h
      exact .inr (.inr (.inr (.inr ⟨w, rest, rfl, hresp, (Host.Outcome.next.inj hreset).symm⟩)))

/-! ### A word offered to a halted block (R118) -/

section
variable {s : State}

theorem exec_of_fault (h : s.fault = true) (i : Instr) : exec i s = .next (State.respond none s) := by
  cases i with
  | init seed y => rw [exec_init, unlessHalted_of_fault h]
  | next => rw [exec_next, unlessHalted_of_fault h]

/-- R122: a halted block records no new fault. -/
theorem performIllegal_of_fault (h : s.fault = true) : performIllegal s = State.respond none s :=
  unlessHalted_of_fault h

/-- The answer to every word, whether it decodes to a command or has a reserved opcode. -/
theorem performWord_of_fault (h : s.fault = true) (w : CommandWord) :
    performWord w s = .next (State.respond none s) := by
  cases hw : decode w with
  | command i => rw [performWord_of_command hw, exec_of_fault h]
  | reservedOpcode op => rw [performWord_of_reserved hw, performIllegal_of_fault h]

/-- R118: a halted block is never final. -/
theorem not_final_of_fault (h : s.fault = true) : ¬ s.Final := fun ⟨_, hrunning⟩ => hrunning h

end

/-! ### The statement -/

/-- Settles O21: every word gets the halted answer, and of the steps a block can take only the two resets do
more than answer, take a response or idle. -/
theorem haltedBlockOnlyAnswers : Obligations.HaltedBlockOnlyAnswers := by
  refine fun s hfault => ⟨fun w rest hin hresp => ?_, fun t hstep => ?_, not_final_of_fault hfault⟩
  · rw [step_command hin hresp]
    exact performWord_of_fault (s := { s with inputs := rest }) hfault w
  · obtain ⟨-, rfl⟩ | ⟨w, rest, -, -, hperform⟩ | ⟨rest, -, rfl⟩ | ⟨rest, hin, -⟩ | ⟨w, rest, hin, -, -⟩ :=
      step_next_cases hstep
    · exact .inl ⟨rfl, rfl, rfl, hfault, rfl⟩
    · rw [performWord_of_fault (s := { s with inputs := rest }) hfault] at hperform
      obtain rfl := Host.Outcome.next.inj hperform
      exact .inl ⟨rfl, rfl, rfl, hfault, rfl⟩
    · exact .inl ⟨rfl, rfl, rfl, hfault, rfl⟩
    · exact .inr (.inl ⟨rest, hin⟩)
    · exact .inr (.inr ⟨w, rest, hin⟩)

end Sys2Proof.Machine

/-! PROOF. What a command can do to a block, said once by the condition that selects it, and the two invariants
of the step: a state stays legal, and two states the host cannot tell apart stay so (spec/10_state.md R24, R27,
R33, R36; spec/60_exceptions.md R116 to R122). -/

namespace Sys2Proof.Machine

/-! ### What a command can do -/

/-- The five effects a command can have, each with the condition on the state before it. `exec_performs` ties it
to `exec`. -/
inductive Performs (s : State) : Instr → State → Prop where
  /-- R118: a halted block answers and does nothing else. -/
  | halted (i : Instr) (hfault : s.fault = true) : Performs s i (State.respond none s)
  /-- R70: `INIT`. -/
  | seeded (seed y : Word) (hfault : s.fault = false) :
      Performs s (.init seed y) (initialise seed y s)
  /-- R108: `NEXT` without an `INIT`. -/
  | unseeded (hfault : s.fault = false) (hvalid : s.valid = false) :
      Performs s .next (takeFault .notInitialized s)
  /-- R102: `NEXT` below the end of the array. -/
  | read (hfault : s.fault = false) (hvalid : s.valid = true) (hlt : s.cursor.toNat < 312) :
      Performs s .next
        (State.respond (some (temper s.S[s.cursor.toNat])) { s with cursor := s.cursor + 1 })
  /-- R101: `NEXT` at the end of the array or past it. -/
  | refilled (A : StateArray) (hfault : s.fault = false) (hvalid : s.valid = true)
      (hge : 312 ≤ s.cursor.toNat) (hA : regenWith s.wrapBSource s.S = some A) :
      Performs s .next (State.respond (some (temper A[0])) { s with S := A, cursor := 1 })

/-- Every command answers a next state, by one of the five effects. -/
theorem exec_performs (i : Instr) (s : State) : ∃ t, exec i s = .next t ∧ Performs s i t := by
  cases hfault : s.fault with
  | true => exact ⟨_, exec_of_fault hfault i, .halted i hfault⟩
  | false =>
    cases i with
    | init seed y => exact ⟨_, exec_init_of_running hfault seed y, .seeded seed y hfault⟩
    | next =>
      rw [exec_next_of_running hfault]
      refine ⟨_, rfl, ?_⟩
      cases hvalid : s.valid with
      | false => exact produceNext_of_invalid hvalid ▸ .unseeded hfault hvalid
      | true =>
        rcases Nat.lt_or_ge s.cursor.toNat 312 with hlt | hge
        · exact produceNext_of_lt hvalid hlt ▸ .read hfault hvalid hlt
        · obtain ⟨A, hA⟩ := exists_regenWith_eq s.wrapBSource s.S
          exact produceNext_of_ge hvalid hge hA ▸ .refilled A hfault hvalid hge hA

theorem performs_of_exec_eq {i : Instr} {s t : State} (h : exec i s = .next t) : Performs s i t := by
  obtain ⟨u, hu, hperforms⟩ := exec_performs i s
  obtain rfl := Host.Outcome.next.inj (h.symm.trans hu)
  exact hperforms

/-- A word is performed as a command, or as a reserved opcode; either way it answers a next state. -/
theorem performWord_cases (w : CommandWord) (s : State) :
    ∃ t, performWord w s = .next t ∧
      ((∃ i, decode w = .command i ∧ Performs s i t) ∨
        (opField w ≠ opInit ∧ opField w ≠ opNext ∧ t = performIllegal s)) := by
  cases hw : decode w with
  | command i =>
    obtain ⟨t, ht, hperforms⟩ := exec_performs i s
    exact ⟨t, (performWord_of_command hw s).trans ht, .inl ⟨i, rfl, hperforms⟩⟩
  | reservedOpcode op =>
    obtain ⟨hinit, hnext, rfl⟩ := decode_eq_reserved_iff.1 hw
    exact ⟨_, performWord_of_reserved hw s, .inr ⟨hinit, hnext, rfl⟩⟩

/-! ### Each operation keeps a state legal -/

section
variable {s : State}

theorem State.Legal.with_inputs (h : s.Legal) (rest : List HostEvent) : { s with inputs := rest }.Legal :=
  { h with }

/-- R24: the storage may hold any words, and any cursor in range. -/
theorem State.Legal.with_storage (h : s.Legal) (A : StateArray) {c : Cursor} (hc : c.toNat ≤ 312) :
    { s with S := A, cursor := c }.Legal :=
  { h with cursor_le := fun _ => hc }

/-- R60: whatever response stood, the one given last carries the `STATUS` it leaves, and has no data word exactly
if the block has faulted. -/
theorem respond_legal {d : Option Word} (cursor_le : s.valid = true → s.cursor.toNat ≤ 312)
    (cause_none_iff : s.cause = .none ↔ s.fault = false) (no_violation : s.cause ≠ .invariantViolation)
    (not_initialized : s.cause = .notInitialized → s.valid = false) (hd : d = none ↔ s.fault = true) :
    (State.respond d s).Legal where
  cursor_le := cursor_le
  cause_none_iff := cause_none_iff
  no_violation := no_violation
  not_initialized := not_initialized
  response_status _ hr := Option.some.inj hr ▸ rfl
  response_data _ hr := Option.some.inj hr ▸ hd

theorem State.Legal.respond (h : s.Legal) {d : Option Word} (hd : d = none ↔ s.fault = true) :
    (State.respond d s).Legal :=
  respond_legal h.cursor_le h.cause_none_iff h.no_violation h.not_initialized hd

theorem State.Legal.takeResponse (h : s.Legal) : (Machine.takeResponse s).Legal :=
  { h with
    response_status := fun _ hr => nomatch hr
    response_data := fun _ hr => nomatch hr }

/-- R116, R117: taking one of the two faults that a word can raise. -/
theorem State.Legal.takeFault (h : s.Legal) {c : Cause} (hnone : c ≠ .none)
    (hviolation : c ≠ .invariantViolation) (hvalid : c = .notInitialized → s.valid = false) :
    (Machine.takeFault c s).Legal :=
  respond_legal h.cursor_le (by simp [hnone]) hviolation hvalid (by simp)

/-- R70: `INIT` leaves the cursor at `N`; without a fault there is no cause that forbids `VALID`. -/
theorem State.Legal.initialise (h : s.Legal) (hfault : s.fault = false) (seed y : Word) :
    (Machine.initialise seed y s).Legal := by
  have hcause : s.cause = .none := h.cause_none_iff.2 hfault
  exact respond_legal (fun _ => Nat.le_refl 312) h.cause_none_iff h.no_violation (by simp [hcause])
    (by simp [hfault])

/-- R135: whatever the storage holds after a reset, `VALID` = 0. -/
theorem resetBlock_legal (s : State) : (resetBlock s).Legal where
  cursor_le hvalid := absurd hvalid Bool.false_ne_true
  cause_none_iff := by simp
  no_violation := by simp
  not_initialized _ := rfl
  response_status _ hr := nomatch hr
  response_data _ hr := nomatch hr

/-! ### Each step keeps a state legal -/

theorem State.Legal.performs (h : s.Legal) {i : Instr} {t : State} (hperforms : Performs s i t) : t.Legal := by
  cases hperforms with
  | halted _ hfault => exact h.respond (by simp [hfault])
  | seeded seed y hfault => exact h.initialise hfault seed y
  | unseeded _ hvalid => exact h.takeFault (by decide) (by decide) fun _ => hvalid
  | read hfault _ hlt =>
    have hcursor : (s.cursor + 1).toNat ≤ 312 := by
      rw [toNat_cursor_succ hlt]
      exact hlt
    exact (h.with_storage s.S hcursor).respond (by simp [hfault])
  | refilled A hfault => exact (h.with_storage A (c := 1) (by decide)).respond (by simp [hfault])

theorem State.Legal.performIllegal (h : s.Legal) : (Machine.performIllegal s).Legal := by
  cases hfault : s.fault with
  | true =>
    rw [performIllegal_of_fault hfault]
    exact h.respond (by simp [hfault])
  | false =>
    rw [performIllegal_of_running hfault]
    exact h.takeFault (by decide) (by decide) nofun

theorem State.Legal.performWord (h : s.Legal) {w : CommandWord} {t : State}
    (hperform : Machine.performWord w s = .next t) : t.Legal := by
  obtain ⟨u, hu, hcases⟩ := performWord_cases w s
  obtain rfl := Host.Outcome.next.inj (hperform.symm.trans hu)
  obtain ⟨i, -, hperforms⟩ | ⟨-, -, rfl⟩ := hcases
  · exact h.performs hperforms
  · exact h.performIllegal

theorem State.Legal.step (h : s.Legal) {t : State} (hstep : Machine.step s = .next t) : t.Legal := by
  obtain ⟨-, rfl⟩ | ⟨w, rest, -, -, hperform⟩ | ⟨rest, -, rfl⟩ | ⟨rest, -, rfl⟩ | ⟨w, rest, -, -, rfl⟩ :=
    step_next_cases hstep
  · exact h
  · exact (h.with_inputs rest).performWord hperform
  · exact (h.with_inputs rest).takeResponse
  · exact resetBlock_legal _
  · exact resetBlock_legal _

end

/-! ### The statements -/

/-- Settles O39: each event keeps a state legal, a command by each of its five effects. -/
theorem stepKeepsLegal : Obligations.StepKeepsLegal := fun _ _ hlegal hstep => hlegal.step hstep

/-- Settles O40: no event lets the host see `S` or the cursor while `VALID` = 0. -/
theorem stepKeepsAgreement : Obligations.StepKeepsAgreement := fun _ _ hagree => step_agrees hagree

end Sys2Proof.Machine

/-! PROOF. The status register and the response word, the state after reset, and the statements about them
(spec/10_state.md R27, R35; spec/30_encoding.md R60; spec/60_exceptions.md R116). -/

namespace Sys2Proof.Machine

/-- R27: the four parts of the status byte. -/
theorem statusByte_layout (c : Cause) (fault valid : Bool) :
    (statusByte c fault valid).extractLsb' 4 4 = 0#4 ∧
    (statusByte c fault valid).extractLsb' 2 2 = c.code ∧
    (statusByte c fault valid).getLsbD 1 = fault ∧
    (statusByte c fault valid).getLsbD 0 = valid := by
  cases c <;> cases fault <;> cases valid <;> decide

/-- R116: distinct causes have distinct codes. -/
theorem Cause.eq_iff_code_eq {c c' : Cause} : c = c' ↔ c.code = c'.code := by
  cases c <;> cases c' <;> decide

/-- R35, R135: the status byte of a block that has just been reset. -/
theorem statusByte_reset : statusByte .none false false = 0x00#8 := by decide

/-- R60: the high and the low part of a response word. -/
theorem Response.word_layout (r : Response) (driven : Word) :
    (r.word driven).extractLsb' 64 8 = r.status ∧
    (r.word driven).extractLsb' 0 64 = r.data.getD driven :=
  ⟨BitVec.extractLsb'_append_eq_left, BitVec.extractLsb'_append_eq_right⟩

/-- Settles O8: each field by its value in `State.reset`. -/
theorem resetStateIsUninitialised : Obligations.ResetStateIsUninitialised :=
  ⟨rfl, rfl, rfl, statusByte_reset, rfl, rfl⟩

/-- Settles O9: `VALID` and `FAULT` are 0 and no response stands, so only `CAUSE` has to be looked at. -/
theorem resetStateIsLegal : Obligations.ResetStateIsLegal where
  cursor_le hvalid := absurd hvalid Bool.false_ne_true
  cause_none_iff := by decide
  no_violation := by decide
  not_initialized _ := rfl
  response_status _ hr := nomatch hr
  response_data _ hr := nomatch hr

/-- Settles O10: the layout of the byte, and a cause known by its code. -/
theorem statusByteLayout : Obligations.StatusByteLayout := by
  intro s
  obtain ⟨hhardwired, hcode, hfault, hvalid⟩ := statusByte_layout s.cause s.fault s.valid
  have hcause : ∀ c : Cause, s.cause = c ↔ s.status.extractLsb' 2 2 = c.code := fun c => by
    rw [State.status, hcode, Cause.eq_iff_code_eq]
  exact ⟨hhardwired, hcause .none, hcause .illegalCommand, hcause .notInitialized,
    hcause .invariantViolation, hfault, hvalid⟩

/-- Settles O11: the two parts of the word, the low one being the data word where there is one. -/
theorem responseWordLayout : Obligations.ResponseWordLayout := by
  intro r driven
  obtain ⟨hstatus, hdata⟩ := r.word_layout driven
  exact ⟨hstatus, fun d hd => by rw [hdata, hd, Option.getD_some]⟩

/-- Settles O12: one byte or two for each cause that a legal state can have. -/
theorem legalStatusBytes : Obligations.LegalStatusBytes := by
  intro s hlegal
  obtain ⟨-, hnone, hviolation, hnot, -, -⟩ := hlegal
  rw [State.status]
  cases hcause : s.cause with
  | none =>
    rw [hnone.1 hcause]
    cases s.valid <;> decide
  | illegalCommand =>
    have hfault : s.fault = true := by simpa [hcause] using hnone
    rw [hfault, statusByte_illegalCommand]
    cases s.valid <;> decide
  | notInitialized =>
    have hfault : s.fault = true := by simpa [hcause] using hnone
    rw [hfault, hnot hcause, statusByte_notInitialized]
    decide
  | invariantViolation => exact absurd hcause hviolation

end Sys2Proof.Machine

/-! PROOF. The step, event by event, and the statements about the handshake, reset, the order of the faults and
the parameter (spec/10_state.md R26; spec/30_encoding.md R63; spec/60_exceptions.md R118, R122, R133;
spec/70_reset_and_hazards.md R135, R138). -/

namespace Sys2Proof.Machine

section
variable {s : State} {w : CommandWord} {rest : List HostEvent}

/-! ### One step, by its event -/

theorem step_takeResponse (hin : s.inputs = .takeResponse :: rest) :
    step s = .next { s with inputs := rest, response := none } := step_cons hin

theorem step_reset (hin : s.inputs = .reset :: rest) :
    step s = .next (resetBlock { s with inputs := rest }) := step_cons hin

theorem step_resetDuring (hin : s.inputs = .resetDuring w :: rest) (hresp : s.response = none) :
    step s = .next (resetBlock { s with inputs := rest }) := by
  rw [step_cons hin]
  exact acceptWord_eq_next_iff.2 ⟨hresp, rfl⟩

/-- R63, R138: a reset during a command is preceded by the offer of that command. -/
theorem step_resetDuring_refused {r : Response} (hin : s.inputs = .resetDuring w :: rest)
    (hresp : s.response = some r) : step s = .refused .handshakeBroken := by
  simp [step_cons hin, handleEvent, acceptWord, hresp]

/-- R63: a word offered while no response stands gets a step. -/
theorem exists_step_command (hin : s.inputs = .command w :: rest) (hresp : s.response = none) :
    ∃ t, step s = .next t := by
  obtain ⟨t, ht, -⟩ := performWord_cases w { s with inputs := rest }
  exact ⟨t, (step_command hin hresp).trans ht⟩

end

/-- A command read from a table word is the command that word decodes to. -/
theorem decode_of_decodeTableWord {nbits w : Nat} {i : Instr} (h : decodeTableWord nbits w = some i) :
    decode (tableWord nbits w) = .command i := by
  unfold decodeTableWord at h
  split at h
  · next j hj => rw [hj, Option.some.inj h]
  · exact nomatch h

/-! ### What no command changes -/

theorem Performs.wrapBSource {s t : State} {i : Instr} (h : Performs s i t) : t.wrapBSource = s.wrapBSource := by
  cases h <;> rfl

theorem performIllegal_wrapBSource (s : State) : (performIllegal s).wrapBSource = s.wrapBSource := by
  cases hfault : s.fault with
  | true => rw [performIllegal_of_fault hfault, State.respond_wrapBSource]
  | false => rw [performIllegal_of_running hfault, takeFault_wrapBSource]

/-! ### The order of the fault conditions (R122) -/

/-- `FAULT` and `CAUSE` after a word on a block in state `s`, by the first condition of R122 that holds. -/
def faultAfter (w : CommandWord) (s : State) : Bool × Cause :=
  if s.fault then (true, s.cause)
  else if opField w ≠ opInit ∧ opField w ≠ opNext then (true, .illegalCommand)
  else if opField w = opNext ∧ s.valid = false then (true, .notInitialized)
  else (false, s.cause)

theorem performWord_faultAfter (w : CommandWord) (s : State) :
    ∃ t, performWord w s = .next t ∧ (t.fault, t.cause) = faultAfter w s := by
  cases hfault : s.fault with
  | true => exact ⟨_, performWord_of_fault hfault w, by simp [faultAfter, hfault]⟩
  | false =>
    obtain ⟨t, ht, ⟨i, hi, hperforms⟩ | ⟨hinit, hnext, rfl⟩⟩ := performWord_cases w s
    · refine ⟨t, ht, ?_⟩
      cases hperforms with
      | halted _ hhalted => simp [hfault] at hhalted
      | seeded seed y =>
        obtain ⟨hop, -, -⟩ := decode_eq_init_iff.1 hi
        simp [faultAfter, hfault, hop, opInit_ne_opNext, initialise]
      | unseeded _ hvalid => simp [faultAfter, hfault, decode_eq_next_iff.1 hi, hvalid]
      | read _ hvalid => simp [faultAfter, hfault, decode_eq_next_iff.1 hi, hvalid]
      | refilled A _ hvalid => simp [faultAfter, hfault, decode_eq_next_iff.1 hi, hvalid]
    · exact ⟨_, ht, by simp [faultAfter, hfault, performIllegal_of_running hfault, hinit, hnext]⟩

/-! ### The statements -/

/-- Settles O13: the offered word is accepted and performed. -/
theorem stepRunsDecodedCommand : Obligations.StepRunsDecodedCommand := by
  intro s w rest i hin hresp hdecode
  rw [step_command hin hresp, performWord_of_command hdecode]

/-- Settles O14: the placed word is offered next, and nothing stands in its way. -/
theorem placedWordRunsNext : Obligations.PlacedWordRunsNext := by
  intro s nbits w i h
  rw [step_withFetchWord, performWord_of_command (decode_of_decodeTableWord h)]

/-- Settles O15: without an event the step is idle. -/
theorem idleBlockKeepsItsState : Obligations.IdleBlockKeepsItsState := fun _ hin => step_nil hin

/-- Settles O16: a take by its step, and each of the two offers by its refusal. -/
theorem handshakeIsKept : Obligations.HandshakeIsKept := by
  refine ⟨fun s rest hin => step_takeResponse hin, fun s w rest r hin hresp => ?_⟩
  obtain hin | hin := hin
  · exact step_command_refused hin hresp
  · exact step_resetDuring_refused hin hresp

/-- Settles O17: of the events only the two that offer a word ask for room for its response. -/
theorem stepStopsOnlyOnBrokenHandshake : Obligations.StepStopsOnlyOnBrokenHandshake := by
  intro s
  cases hin : s.inputs with
  | nil => exact .inl ⟨s, step_nil hin⟩
  | cons e rest =>
    cases e with
    | takeResponse => exact .inl ⟨_, step_takeResponse hin⟩
    | reset => exact .inl ⟨_, step_reset hin⟩
    | command w =>
      cases hresp : s.response with
      | none => exact .inl (exists_step_command hin hresp)
      | some r => exact .inr ⟨step_command_refused hin hresp, nofun, w, rest, .inl rfl⟩
    | resetDuring w =>
      cases hresp : s.response with
      | none => exact .inl ⟨_, step_resetDuring hin hresp⟩
      | some r => exact .inr ⟨step_resetDuring_refused hin hresp, nofun, w, rest, .inr rfl⟩

/-- Settles O18: both forms of the event reset the block. -/
theorem resetEventClearsStatus : Obligations.ResetEventClearsStatus := by
  intro s rest
  constructor
  · intro hin
    exact ⟨_, step_reset hin, rfl, rfl, rfl, statusByte_reset, rfl, rfl⟩
  · intro w hin hresp
    rw [step_resetDuring hin hresp, step_reset (s := { s with inputs := .reset :: rest }) rfl]

/-- Settles O22: the word is accepted, and each of its effects comes under the condition it stands for. -/
theorem faultPriority : Obligations.FaultPriority := by
  intro s w rest hin hresp
  rw [step_command hin hresp]
  exact performWord_faultAfter w { s with inputs := rest }

/-- Settles O44: no event writes the parameter, a command by none of its effects. -/
theorem wrapBSourceIsFixed : Obligations.WrapBSourceIsFixed := by
  refine ⟨rfl, fun s t hstep => ?_⟩
  obtain ⟨-, rfl⟩ | ⟨w, rest, -, -, hperform⟩ | ⟨rest, -, rfl⟩ | ⟨rest, -, rfl⟩ | ⟨w, rest, -, -, rfl⟩ :=
    step_next_cases hstep
  · rfl
  · obtain ⟨u, hu, hcases⟩ := performWord_cases w { s with inputs := rest }
    obtain rfl := Host.Outcome.next.inj (hperform.symm.trans hu)
    obtain ⟨i, -, hperforms⟩ | ⟨-, -, rfl⟩ := hcases
    · exact hperforms.wrapBSource
    · exact performIllegal_wrapBSource _
  · rfl
  · rfl
  · rfl

end Sys2Proof.Machine

/-! PROOF. Further statements about `INIT`, and what each command writes (spec/10_state.md R21, R24, R28 to R30;
spec/40_init.md R75 to R77; spec/41_regen.md R92; spec/42_next.md R103). -/

namespace Sys2Proof.Machine

/-! ### The array that `INIT` leaves -/

/-- R92: word 1 is 1 where word 0 is 0. -/
theorem seedArray_ne_zero (x : Word) : seedArray x ≠ Vector.replicate 312 0 := by
  intro hzero
  have hword1 := seedArray_succ x 0 (by decide)
  rw [hzero] at hword1
  exact absurd hword1 (by simp [seedStep])

/-- R76: the first words where the operands are equal. -/
theorem seedArray_of_equal_seeds :
    (seedArray 0)[0] = 0 ∧ (seedArray 0)[1] = 1 ∧ (seedArray 0)[2] = 0x5851f42d4c957f2f := by
  have hword1 : (seedArray 0)[1] = 1 := (seedArray_succ 0 0 (by decide)).trans (by decide)
  refine ⟨seedArray_zero 0, hword1, ?_⟩
  rw [seedArray_succ 0 1 (by decide), hword1]
  decide

/-! ### What a command writes -/

section
variable {i : Instr} {s t : State}

/-- R24: where every command that runs leaves the cursor. -/
theorem Performs.cursor_of_running (h : Performs s i t) (hfault : s.fault = false) (hvalid : s.valid = true) :
    1 ≤ t.cursor.toNat ∧ t.cursor.toNat ≤ 312 := by
  cases h with
  | halted _ hhalted => exact absurd hhalted (by simp [hfault])
  | seeded seed y => exact (by decide : 1 ≤ 312 ∧ 312 ≤ 312)
  | unseeded _ hunseeded => exact absurd hunseeded (by simp [hvalid])
  | read _ _ hlt =>
    rw [State.respond_cursor, toNat_cursor_succ hlt]
    exact ⟨Nat.le_add_left 1 _, hlt⟩
  | refilled A => exact (by decide : 1 ≤ 1 ∧ 1 ≤ 312)

/-- R103: the one cause a command writes is `NOT_INITIALIZED`. -/
theorem Performs.cause (h : Performs s i t) : t.cause = s.cause ∨ t.cause = .notInitialized := by
  cases h with
  | unseeded => exact .inr rfl
  | _ => exact .inl rfl

/-- R30: the host's events and the model's counter are not a command's to write. -/
theorem Performs.inputs (h : Performs s i t) : t.inputs = s.inputs := by
  cases h <;> rfl

theorem Performs.freeDraws (h : Performs s i t) : t.freeDraws = s.freeDraws := by
  cases h <;> rfl

/-- R28: only an `INIT` that runs writes `VALID`. -/
theorem Performs.valid (h : Performs s i t) (hne : t.valid ≠ s.valid) :
    s.fault = false ∧ t.valid = true ∧ ∃ seed y, i = .init seed y := by
  cases h with
  | seeded seed y hfault => exact ⟨hfault, rfl, seed, y, rfl⟩
  | _ => exact absurd rfl hne

/-- R29: only a `NEXT` before an `INIT` writes `FAULT` and `CAUSE`. -/
theorem Performs.fault_or_cause (h : Performs s i t) (hne : t.fault ≠ s.fault ∨ t.cause ≠ s.cause) :
    i = .next ∧ s.fault = false ∧ s.valid = false := by
  cases h with
  | unseeded hfault hvalid => exact ⟨rfl, hfault, hvalid⟩
  | _ => exact absurd hne (by simp [initialise])

/-- R21: only an `INIT` that runs, and the refill of a `NEXT`, write `S`. -/
theorem Performs.S (h : Performs s i t) (hne : t.S ≠ s.S) :
    s.fault = false ∧
      ((∃ seed y, i = .init seed y) ∨ (i = .next ∧ s.valid = true ∧ 312 ≤ s.cursor.toNat)) := by
  cases h with
  | seeded seed y hfault => exact ⟨hfault, .inl ⟨seed, y, rfl⟩⟩
  | refilled A hfault hvalid hge => exact ⟨hfault, .inr ⟨rfl, hvalid, hge⟩⟩
  | _ => exact absurd rfl hne

/-- R23: only an `INIT` that runs, and a `NEXT` on an initialised block, write the cursor. -/
theorem Performs.cursor (h : Performs s i t) (hne : t.cursor ≠ s.cursor) :
    s.fault = false ∧ ((∃ seed y, i = .init seed y) ∨ (i = .next ∧ s.valid = true)) := by
  cases h with
  | seeded seed y hfault => exact ⟨hfault, .inl ⟨seed, y, rfl⟩⟩
  | read hfault hvalid => exact ⟨hfault, .inr ⟨rfl, hvalid⟩⟩
  | refilled A hfault hvalid => exact ⟨hfault, .inr ⟨rfl, hvalid⟩⟩
  | _ => exact absurd rfl hne

end

/-! ### The statements -/

/-- Settles O24: every word of the array is a function of the exclusive-or. -/
theorem initDependsOnXorAlone : Obligations.InitDependsOnXorAlone := by
  intro seed y seed' y' s s' hfault hfault' hxor
  refine ⟨_, _, exec_init_of_running hfault seed y, exec_init_of_running hfault' seed' y', ?_, rfl, rfl⟩
  exact congrArg seedArray hxor

/-- Settles O25: equal operands give the array of 0, and no array is the zero one. -/
theorem initOfEqualSeeds : Obligations.InitOfEqualSeeds := by
  refine ⟨fun seed s hfault => ⟨_, exec_init_of_running hfault seed seed, ?_⟩,
    fun seed y s hfault => ⟨_, exec_init_of_running hfault seed y, seedArray_ne_zero _⟩⟩
  rw [initialise_of_running hfault, BitVec.xor_self]
  exact seedArray_of_equal_seeds

/-- Settles O36: `REGEN` and `INIT` write the cursor, and `NEXT` advances it or starts again at 1. -/
theorem cursorStaysInRange : Obligations.CursorStaysInRange := by
  refine ⟨fun s => ?regen, fun seed y s hfault => ?init, fun s hfault hvalid => ?next⟩
  case regen =>
    obtain ⟨A, hA⟩ := exists_regenWith_eq s.wrapBSource s.S
    exact ⟨_, by rw [regen, hA, Option.map_some], rfl⟩
  case init => exact ⟨_, exec_init_of_running hfault seed y, rfl⟩
  case next =>
    obtain ⟨t, ht, hperforms⟩ := exec_performs .next s
    exact ⟨t, ht, hperforms.cursor_of_running hfault hvalid⟩

/-- Settles O37: no effect of a command writes that cause. -/
theorem invariantViolationUnreachable : Obligations.InvariantViolationUnreachable := by
  intro i s hcause
  obtain ⟨t, ht, hperforms⟩ := exec_performs i s
  refine ⟨t, ht, ?_⟩
  obtain heq | heq := hperforms.cause
  · rwa [heq]
  · rw [heq]
    decide

/-- Settles O38: the frame, field by field. -/
theorem commandFrame : Obligations.CommandFrame := by
  intro i s t hexec
  have hperforms := performs_of_exec_eq hexec
  exact ⟨hperforms.inputs, hperforms.wrapBSource, hperforms.freeDraws, hperforms.valid,
    hperforms.fault_or_cause, hperforms.S, hperforms.cursor⟩

end Sys2Proof.Machine

/-! PROOF. The assembler: the digits of a `.raw` line, the range of a literal, and the statements about them
(spec/30_encoding.md R64, R67). -/

namespace Sys2Proof.Machine

/-! ### `.raw` (R64) -/

/-- The last digit is written below the others. -/
theorem rawWord_concat (ds : List (BitVec 4)) (d : BitVec 4) :
    rawWord (ds ++ [d]) = rawWord ds <<< 4 ||| d.setWidth 136 := by
  simp [rawWord]

/-- The lowest four bits of a word to which a digit has been added. -/
theorem extractLsb'_zero_shiftLeft_or (w : CommandWord) (d : BitVec 4) :
    (w <<< 4 ||| d.setWidth 136).extractLsb' 0 4 = d := by
  apply BitVec.eq_of_getLsbD_eq
  intro i hi
  simp [hi, show i < 136 by omega]

/-- The bits of the word that the new digit has moved up. -/
theorem extractLsb'_shiftLeft_or (w : CommandWord) (d : BitVec 4) {n : Nat} (hn : n + 8 ≤ 136) :
    (w <<< 4 ||| d.setWidth 136).extractLsb' (n + 4) 4 = w.extractLsb' n 4 := by
  apply BitVec.eq_of_getLsbD_eq
  intro i hi
  have hd : d.getLsbD (n + 4 + i) = false := BitVec.getLsbD_of_ge d _ (by omega)
  simp [hi, hd, show n + 4 + i < 136 by omega, show ¬ n + 4 + i < 4 by omega,
    show n + 4 + i - 4 = n + i by omega, BitVec.getLsbD_eq_getElem (show n + i < 136 by omega)]

/-- Digit `k` of at most 34 stands in the nibble that has as many nibbles below it as digits follow it. -/
theorem rawWord_extractLsb' (ds : List (BitVec 4)) (hlen : ds.length ≤ 34) {k : Nat} {d : BitVec 4}
    (hk : ds[k]? = some d) : (rawWord ds).extractLsb' (4 * (ds.length - 1 - k)) 4 = d := by
  induction ds using List.reverseRecOn with
  | nil => exact nomatch hk
  | append_singleton ds d' ih =>
    rw [List.length_append, List.length_singleton] at hlen
    rw [rawWord_concat, List.length_append, List.length_singleton, Nat.add_sub_cancel]
    rcases Nat.lt_trichotomy k ds.length with hlt | rfl | hgt
    · rw [List.getElem?_append_left hlt] at hk
      rw [show 4 * (ds.length - k) = 4 * (ds.length - 1 - k) + 4 by omega,
        extractLsb'_shiftLeft_or _ _ (by omega)]
      exact ih (by omega) hk
    · rw [Nat.sub_self, Nat.mul_zero, extractLsb'_zero_shiftLeft_or]
      simpa using hk
    · rw [List.getElem?_eq_none (by simpa using hgt)] at hk
      exact nomatch hk

/-! ### The statements -/

/-- Settles O4: the notation is evaluated on each text, and the decoder on each word. -/
theorem encodingExamples : Obligations.EncodingExamples := by
  refine ⟨?_, ?_, ?_, ?_, ?_, ?_, ?_, ?_, ?_, ?_⟩ <;> decide

/-- Settles O5: the range check, and below it two literals that the words keep whole. -/
theorem assemblerRefusesWideLiterals : Obligations.AssemblerRefusesWideLiterals := by
  intro seed y
  have hwf : (AsmLine.init seed y).wf = true ↔ seed < 2 ^ 64 ∧ y < 2 ^ 64 := by
    simp [AsmLine.wf, literalFits]
  constructor
  · intro hfits
    exact ⟨_, _, _, assembleLine_of_wf (hwf.2 hfits), decode_encode _,
      Nat.mod_eq_of_lt hfits.1, Nat.mod_eq_of_lt hfits.2⟩
  · intro hwide
    exact assembleLine_of_not_wf (Bool.eq_false_iff.2 (mt hwf.1 hwide))

/-- Settles O7: 34 digits are accepted, each of them at its nibble. -/
theorem rawLineEmitsItsDigits : Obligations.RawLineEmitsItsDigits := by
  intro digits
  constructor
  · intro hlen
    refine ⟨rawWord digits, assembleLine_of_wf (decide_eq_true hlen), fun k d hk => ?_⟩
    have hdigit := rawWord_extractLsb' digits hlen.le hk
    rwa [hlen] at hdigit
  · intro hlen
    exact assembleLine_of_not_wf (decide_eq_false hlen)

end Sys2Proof.Machine

/-! PROOF. `REGEN`: the properties of `mix`, the recurrence that the in-place passes compute, and the statements
about the two readings, the modulo-indexed loop and the corner cases (spec/41_regen.md R80 to R92). -/

namespace Sys2Proof.Machine

/-! ### `mix` (R80, R81) -/

/-- R80: the low 31 bits come from `b`, the rest from `a`. -/
theorem combine_getLsbD (a b : Word) {k : Nat} (hk : k < 64) :
    (combine a b).getLsbD k = if k < 31 then b.getLsbD k else a.getLsbD k := by
  rw [combine, BitVec.getLsbD_or, BitVec.getLsbD_and, BitVec.getLsbD_and, upperMask_getLsbD hk,
    lowerMask_getLsbD hk]
  by_cases hlow : k < 31
  · simp [hlow]
  · simp [hlow, Nat.not_lt.1 hlow]

theorem combine_congr {a b a' b' : Word}
    (hhigh : ∀ k, 31 ≤ k → k < 64 → a.getLsbD k = a'.getLsbD k)
    (hlow : ∀ k, k < 31 → b.getLsbD k = b'.getLsbD k) : combine a b = combine a' b' := by
  apply BitVec.eq_of_getLsbD_eq
  intro k hk
  rw [combine_getLsbD a b hk, combine_getLsbD a' b' hk]
  split
  · next h => exact hlow k h
  · next h => exact hhigh k (Nat.not_lt.1 h) hk

theorem combine_self (a : Word) : combine a a = a := by
  apply BitVec.eq_of_getLsbD_eq
  intro k hk
  rw [combine_getLsbD a a hk, ite_self]

/-- R80: the product with bit 0 is a select. -/
theorem mix_eq_ite (a b : Word) :
    mix a b = (combine a b >>> 1) ^^^ (if (combine a b).getLsbD 0 then matrixA else 0) := by
  rw [mix, and_one_mul]

theorem combine_getLsbD_zero (a b : Word) : (combine a b).getLsbD 0 = b.getLsbD 0 :=
  combine_getLsbD a b (by decide)

/-- R81: only the matrix constant reaches bit 63. -/
theorem mix_getLsbD_63 (a b : Word) : (mix a b).getLsbD 63 = b.getLsbD 0 := by
  have hconst : matrixA.getLsbD 63 = true := by decide
  rw [mix_eq_ite, combine_getLsbD_zero, BitVec.getLsbD_xor, BitVec.getLsbD_ushiftRight]
  cases b.getLsbD 0 <;> simp [hconst]

theorem mix_self (a : Word) :
    mix a a = (a >>> 1) ^^^ (if a.getLsbD 0 then 0xb5026f5aa96619e9 else 0) := by
  rw [mix_eq_ite, combine_self, matrixA]

/-- `mix` loses nothing of the combined word: bit 63 tells bit 0, and with it the rest. -/
theorem combine_eq_of_mix_eq {a b a' b' : Word} (h : mix a b = mix a' b') : combine a b = combine a' b' := by
  have hzero : (combine a b).getLsbD 0 = (combine a' b').getLsbD 0 := by
    rw [combine_getLsbD_zero, combine_getLsbD_zero, ← mix_getLsbD_63 a b, h, mix_getLsbD_63]
  have hshift : combine a b >>> 1 = combine a' b' >>> 1 := by
    rw [mix_eq_ite, mix_eq_ite, hzero] at h
    exact (BitVec.xor_left_inj _).1 h
  apply BitVec.eq_of_getLsbD_eq
  intro k hk
  cases k with
  | zero => exact hzero
  | succ k =>
    rw [Nat.add_comm k 1, ← BitVec.getLsbD_ushiftRight, ← BitVec.getLsbD_ushiftRight, hshift]

/-- With one `a`, words with different low bits have different images. -/
theorem mix_ne_of_low_ne {a b b' : Word} (h : b.extractLsb' 0 31 ≠ b'.extractLsb' 0 31) :
    mix a b ≠ mix a b' := by
  intro hmix
  apply h
  apply BitVec.eq_of_getLsbD_eq
  intro k hk
  have hbit : (combine a b).getLsbD k = (combine a b').getLsbD k :=
    congrArg (·.getLsbD k) (combine_eq_of_mix_eq hmix)
  rw [combine_getLsbD a b (by omega), combine_getLsbD a b' (by omega), if_pos hk, if_pos hk] at hbit
  simpa [hk] using hbit

/-! ### The recurrence (R83 to R88) -/

/-- `A` follows from `S` by the recurrences of the two passes and the final step. -/
structure Regenerated (src : WrapBSource) (S A : StateArray) : Prop where
  /-- R84: pass 1. -/
  low : ∀ (i : Nat) (h : i < 156), A[i] = S[i + 156] ^^^ mix S[i] S[i + 1]
  /-- R86: pass 2. -/
  high : ∀ (i : Nat) (h : i < 155), A[i + 156] = A[i] ^^^ mix S[i + 156] S[i + 156 + 1]
  /-- R88: the final step. -/
  last : A[311] = A[155] ^^^ mix S[311] (if src = .self then S[311] else A[0])

/-- The three parts of `REGEN`, run one after the other. -/
theorem exists_regenerated (src : WrapBSource) (S : StateArray) :
    ∃ A : StateArray, regenWith src S = some A ∧ Regenerated src S A := by
  obtain ⟨t, hpass1, hcarry1, hwords1⟩ := pass1_spec S
  have hold : ∀ (j : Nat) (hj : j < 312), 156 ≤ j → t.S[j] = S[j] := fun j hj hge => by
    rw [hwords1 j hj, dif_neg (by omega)]
  obtain ⟨u, hpass2, hcarry2, hwords2⟩ := pass2_spec hcarry1 hold
  have hnew : ∀ (j : Nat) (hj : j < 156), u.S[j] = t.S[j] := fun j hj => by
    rw [hwords2 j (by omega), dif_neg (by omega)]
  have hlast : u.S[311] = S[311] := by
    rw [hwords2 311 (by decide), dif_neg (by decide), hold 311 (by decide) (by decide)]
  refine ⟨_, (regenWith_of_passes src hpass1 hpass2).trans (finalStep_eq src u), ?low, ?high, ?last⟩
  case low =>
    intro i hi
    rw [Vector.getElem_set_ne _ _ (by omega), hnew i hi, hwords1 i (by omega), dif_pos hi]
  case high =>
    intro i hi
    rw [Vector.getElem_set_ne _ _ (by omega), Vector.getElem_set_ne _ _ (by omega),
      hwords2 (i + 156) (by omega), dif_pos ⟨by omega, by omega⟩, hnew i (by omega)]
    simp
  case last =>
    rw [Vector.getElem_set_self, Vector.getElem_set_ne _ _ (by decide),
      Vector.getElem_set_ne _ _ (by decide), hcarry2, hlast]

/-- An index into the array lies in the first half, in the second short of the last word, or is the last. -/
theorem index_cases {j : Nat} (hj : j < 312) : j < 156 ∨ (∃ i, i < 155 ∧ j = i + 156) ∨ j = 311 := by
  by_cases hlow : j < 156
  · exact .inl hlow
  · by_cases hlast : j = 311
    · exact .inr (.inr hlast)
    · exact .inr (.inl ⟨j - 156, by omega, by omega⟩)

/-- R88: the readings have every word but the last in common. -/
theorem Regenerated.eq_below_last {src src' : WrapBSource} {S A B : StateArray} (hA : Regenerated src S A)
    (hB : Regenerated src' S B) (j : Nat) (hj : j < 311) : A[j] = B[j] := by
  have hlow : ∀ (i : Nat) (hi : i < 156), A[i] = B[i] := fun i hi => by rw [hA.low i hi, hB.low i hi]
  obtain hj' | ⟨i, hi, rfl⟩ | rfl := index_cases (show j < 312 by omega)
  · exact hlow j hj'
  · rw [hA.high i hi, hB.high i hi, hlow i (by omega)]
  · omega

/-! ### The modulo-indexed loop (R91) -/

/-- The array before round `i` of the loop: new words below `i`, old ones from there on. -/
def PartlyRegenerated (S A : StateArray) (i : Nat) (T : StateArray) : Prop :=
  ∀ (j : Nat) (hj : j < 312), T[j] = if j < i then A[j] else S[j]

/-- Each round makes the next word of `REGEN` under `STATE0`: the index of the feedback word wraps to a new word
from 156 on, and that of the successor to the new word 0 at 311. -/
theorem moduloStep_keeps {S A : StateArray} (hA : Regenerated .state0 S A) {i : Nat} {T : StateArray}
    (hi : i < 312) (hT : PartlyRegenerated S A i T) :
    ∃ U, moduloStep i T = some U ∧ PartlyRegenerated S A (i + 1) U := by
  have hword : T[(i + 156) % 312]'(Nat.mod_lt _ (by decide)) ^^^
      mix T[i] (T[(i + 1) % 312]'(Nat.mod_lt _ (by decide))) = A[i] := by
    rw [hT i hi, hT _ (Nat.mod_lt _ (by decide)), hT _ (Nat.mod_lt _ (by decide)), if_neg (Nat.lt_irrefl i)]
    obtain hlow | ⟨k, hk, rfl⟩ | rfl := index_cases hi
    · simp only [Nat.mod_eq_of_lt (show i + 156 < 312 by omega), Nat.mod_eq_of_lt (show i + 1 < 312 by omega)]
      rw [if_neg (by omega), if_neg (by omega), hA.low i hlow]
    · simp only [show (k + 156 + 156) % 312 = k by omega,
        Nat.mod_eq_of_lt (show k + 156 + 1 < 312 by omega)]
      rw [if_pos (by omega), if_neg (by omega), hA.high k hk]
    · exact hA.last.symm
  refine ⟨_, moduloStep_of_lt T hi, fun j hj => ?_⟩
  rw [Vector.getElem_set, hword]
  by_cases hij : i = j
  · subst hij
    simp
  · simp only [hij, if_false, hT j hj, show j < i + 1 ↔ j < i by omega]

theorem regenModulo_eq (S : StateArray) : regenModulo S = regenWith .state0 S := by
  obtain ⟨A, hA, hregen⟩ := exists_regenerated .state0 S
  obtain ⟨T, hT, hall⟩ := forTo_spec (body := moduloStep) (PartlyRegenerated S A) 0 (N - 1) S (by decide)
    (fun j hj => by rw [if_neg (Nat.not_lt_zero j)])
    fun i U _ hi hU => moduloStep_keeps hregen (Nat.lt_succ_of_le hi) hU
  have heq : T = A := Vector.ext fun j hj => (hall j hj).trans (if_pos hj)
  rw [regenModulo, hT, hA, heq]

/-! ### The statements -/

/-- Settles O27: `mix` by its combined word, bit by bit. -/
theorem mixProperties : Obligations.MixProperties := fun a b a' b' =>
  ⟨fun _ => combine_getLsbD a b,
    fun hhigh hlow => by rw [mix_eq_ite, mix_eq_ite, combine_congr hhigh hlow],
    mix_getLsbD_63 a b, mix_self a, by decide⟩

/-- Settles O28: the recurrences of the passes and the final step. -/
theorem regenRecurrence : Obligations.RegenRecurrence := by
  intro src S
  obtain ⟨A, hA, hlow, hhigh, hlast⟩ := exists_regenerated src S
  exact ⟨A, hA, hlow, hhigh, hlast⟩

/-- Settles O29: the loop makes the words of the recurrence under `STATE0`. -/
theorem moduloLoopIsStateZeroReading : Obligations.ModuloLoopIsStateZeroReading := by
  refine fun S => ⟨regenModulo_eq S, fun src => ?_⟩
  obtain ⟨A, hA, hregenA⟩ := exists_regenerated .state0 S
  obtain ⟨B, hB, hregenB⟩ := exists_regenerated src S
  exact ⟨A, B, (regenModulo_eq S).trans hA, hB, hregenA.eq_below_last hregenB⟩

/-- Settles O30: the last words differ as `mix` of the two `b` operands does. -/
theorem readingsDifferInLastWordOnly : Obligations.ReadingsDifferInLastWordOnly := by
  intro S
  obtain ⟨A, hA, hregenA⟩ := exists_regenerated .self S
  obtain ⟨B, hB, hregenB⟩ := exists_regenerated .state0 S
  have hbelow := hregenA.eq_below_last hregenB
  refine ⟨A, B, hA, hB, hbelow, fun hlow hlast => ?_⟩
  rw [hregenA.last, hregenB.last, hbelow 155 (by decide)] at hlast
  exact mix_ne_of_low_ne hlow ((BitVec.xor_right_inj _).1 hlast)

end Sys2Proof.Machine

/-! PROOF. The corner cases of `REGEN`, word by word, and a refill under each reading (spec/41_regen.md R92;
spec/00_scope.md R13). -/

namespace Sys2Proof.Machine

/-- R92: an array with at most one nonzero word. -/
theorem oneWord_getElem {p : Nat} (hp : p < 312) (v : Word) (j : Nat) (hj : j < 312) :
    ((Vector.replicate 312 (0 : Word)).set p v hp)[j] = if p = j then v else 0 := by
  rw [Vector.getElem_set, Vector.getElem_replicate]

/-- R81: zero words leave the feedback word as it is. -/
theorem xor_mix_zero (x : Word) : x ^^^ mix 0 0 = x := by
  have hmix : mix 0 0 = 0#64 := by decide
  rw [hmix, BitVec.xor_zero]

/-! ### An array whose second half is zero -/

section
variable {src : WrapBSource} {S A : StateArray}

/-- Pass 2 copies the new first half where the old second half is zero. -/
theorem Regenerated.high_eq_low (hA : Regenerated src S A)
    (hS : ∀ (j : Nat) (hj : j < 312), 156 ≤ j → S[j] = 0) (i : Nat) (hi : i < 155) : A[i + 156] = A[i] := by
  rw [hA.high i hi, hS _ _ (by omega), hS _ _ (by omega), xor_mix_zero]

theorem Regenerated.last_of_high_zero (hA : Regenerated src S A)
    (hS : ∀ (j : Nat) (hj : j < 312), 156 ≤ j → S[j] = 0) :
    A[311] = A[155] ^^^ mix 0 (if src = .self then 0 else A[0]) := by
  rw [hA.last, hS 311 (by decide) (by decide)]

/-- Then every new word is zero but the first of each half and the last, if the rest of the first half is. -/
theorem Regenerated.eq_zero (hA : Regenerated src S A)
    (hS : ∀ (j : Nat) (hj : j < 312), 156 ≤ j → S[j] = 0)
    (hlow : ∀ (i : Nat) (hi : i < 156), i ≠ 0 → A[i] = 0) (j : Nat) (hj : j < 312) (h0 : j ≠ 0)
    (h156 : j ≠ 156) (h311 : j ≠ 311) : A[j] = 0 := by
  obtain hj' | ⟨i, hi, rfl⟩ | rfl := index_cases hj
  · exact hlow j hj' h0
  · rw [hA.high_eq_low hS i hi, hlow i (by omega) (by omega)]
  · exact absurd rfl h311

end

/-! ### The four arrays (R92) -/

section
variable {src : WrapBSource} {A : StateArray}

theorem Regenerated.of_zero (hA : Regenerated src (Vector.replicate 312 0) A) :
    A = Vector.replicate 312 0 := by
  have hS : ∀ (j : Nat) (hj : j < 312), 156 ≤ j → (Vector.replicate 312 (0 : Word))[j] = 0 :=
    fun j hj _ => Vector.getElem_replicate hj
  have hlow : ∀ (i : Nat) (hi : i < 156), A[i] = 0 := fun i hi => by
    simp only [hA.low i hi, Vector.getElem_replicate, xor_mix_zero]
  have hlast : A[311] = 0 := by
    rw [hA.last_of_high_zero hS, hlow 155 (by decide), hlow 0 (by decide), ite_self, xor_mix_zero]
  apply Vector.ext
  intro j hj
  rw [Vector.getElem_replicate]
  obtain hj' | ⟨i, hi, rfl⟩ | rfl := index_cases hj
  · exact hlow j hj'
  · rw [hA.high_eq_low hS i hi, hlow i (by omega)]
  · exact hlast

/-- The nonzero word at 1 is the `b` operand of round 0 alone. -/
theorem Regenerated.of_word_one (hA : Regenerated src ((Vector.replicate 312 0).set 1 1) A) :
    A[0] = 0xb5026f5aa96619e9 ∧ A[156] = 0xb5026f5aa96619e9 ∧
    A[311] = (if src = .self then 0 else 0xb5026f5abdd5151d) ∧
    ∀ (i : Nat) (h : i < 312), i ≠ 0 → i ≠ 156 → i ≠ 311 → A[i] = 0 := by
  have hS : ∀ (j : Nat) (hj : j < 312), 156 ≤ j → ((Vector.replicate 312 (0 : Word)).set 1 1)[j] = 0 :=
    fun j hj hge => by rw [oneWord_getElem, if_neg (by omega)]
  have hzero : A[0] = 0xb5026f5aa96619e9 := by
    rw [hA.low 0 (by decide)]
    simp only [oneWord_getElem]
    decide
  have hlow : ∀ (i : Nat) (hi : i < 156), i ≠ 0 → A[i] = 0 := fun i hi hi0 => by
    rw [hA.low i hi]
    simp only [oneWord_getElem, show ¬ 1 = i + 156 by omega, show ¬ 1 = i + 1 by omega, if_false]
    split <;> decide
  refine ⟨hzero, (hA.high_eq_low hS 0 (by decide)).trans hzero, ?_, hA.eq_zero hS hlow⟩
  rw [hA.last_of_high_zero hS, hlow 155 (by decide) (by decide), hzero]
  cases src <;> decide

/-- The nonzero word at 311 is the feedback word of round 155, the `b` operand of round 310 and the carry of the
final step. -/
theorem Regenerated.of_word_last (hA : Regenerated src ((Vector.replicate 312 0).set 311 1) A) :
    A[155] = 1 ∧ A[310] = 0xb5026f5aa96619e9 ∧
    A[311] = (if src = .self then 0xb5026f5aa96619e8 else 1) ∧
    ∀ (i : Nat) (h : i < 312), i ≠ 155 → i ≠ 310 → i ≠ 311 → A[i] = 0 := by
  have hlow : ∀ (i : Nat) (hi : i < 156), A[i] = if i = 155 then 1 else 0 := fun i hi => by
    rw [hA.low i hi]
    simp only [oneWord_getElem, show 311 = i + 156 ↔ i = 155 by omega, show ¬ 311 = i by omega,
      show ¬ 311 = i + 1 by omega, if_false, xor_mix_zero]
  have hhigh : ∀ (i : Nat) (hi : i < 155), A[i + 156] = if i = 154 then 0xb5026f5aa96619e9 else 0 :=
    fun i hi => by
    rw [hA.high i hi, hlow i (by omega)]
    simp only [oneWord_getElem, show 311 = i + 156 + 1 ↔ i = 154 by omega, show ¬ 311 = i + 156 by omega,
      show ¬ i = 155 by omega, if_false]
    split <;> decide
  refine ⟨hlow 155 (by decide), hhigh 154 (by decide), ?_, fun j hj h155 h310 h311 => ?_⟩
  · rw [hA.last, hlow 155 (by decide), hlow 0 (by decide), oneWord_getElem]
    cases src <;> decide
  · obtain hj' | ⟨i, hi, rfl⟩ | rfl := index_cases hj
    · rw [hlow j hj', if_neg h155]
    · rw [hhigh i hi, if_neg (by omega)]
    · exact absurd rfl h311

/-- The nonzero word at 0 is the carry of round 0 alone; what it makes has no low bits for the final step. -/
theorem Regenerated.of_word_zero (hA : Regenerated src ((Vector.replicate 312 0).set 0 0x8000000000000000) A) :
    A[0] = 0x4000000000000000 ∧ A[156] = 0x4000000000000000 ∧
    ∀ (i : Nat) (h : i < 312), i ≠ 0 → i ≠ 156 → A[i] = 0 := by
  have hS : ∀ (j : Nat) (hj : j < 312), 156 ≤ j →
      ((Vector.replicate 312 (0 : Word)).set 0 0x8000000000000000)[j] = 0 :=
    fun j hj hge => by rw [oneWord_getElem, if_neg (by omega)]
  have hzero : A[0] = 0x4000000000000000 := by
    rw [hA.low 0 (by decide)]
    simp only [oneWord_getElem]
    decide
  have hlow : ∀ (i : Nat) (hi : i < 156), i ≠ 0 → A[i] = 0 := fun i hi hi0 => by
    rw [hA.low i hi]
    simp only [oneWord_getElem, show ¬ 0 = i + 156 by omega, show ¬ 0 = i by omega,
      show ¬ 0 = i + 1 by omega, if_false, xor_mix_zero]
  have hlast : A[311] = 0 := by
    rw [hA.last_of_high_zero hS, hlow 155 (by decide) (by decide), hzero]
    cases src <;> decide
  refine ⟨hzero, (hA.high_eq_low hS 0 (by decide)).trans hzero, fun j hj h0 h156 => ?_⟩
  by_cases h311 : j = 311
  · subst h311
    exact hlast
  · exact hA.eq_zero hS hlow j hj h0 h156 h311

end

/-! ### A refill under a given reading (R101) -/

theorem exec_next_of_refill {s : State} (hfault : s.fault = false) (hvalid : s.valid = true)
    (hge : 312 ≤ s.cursor.toNat) :
    ∃ t, exec .next s = .next t ∧ t.wrapBSource = s.wrapBSource ∧ Regenerated s.wrapBSource s.S t.S := by
  obtain ⟨A, hA, hregen⟩ := exists_regenerated s.wrapBSource s.S
  exact ⟨_, (exec_next_of_running hfault).trans (congrArg _ (produceNext_of_ge hvalid hge hA)), rfl, hregen⟩

/-! ### The statements -/

/-- Settles O31: each array by the recurrence. -/
theorem regenCornerCases : Obligations.RegenCornerCases := by
  intro src
  have hregen := exists_regenerated src
  refine ⟨?zero, ?one, ?last, ?first⟩
  case zero =>
    obtain ⟨A, hA, hregen⟩ := hregen (Vector.replicate 312 0)
    rw [hA, hregen.of_zero]
  case one =>
    obtain ⟨A, hA, hregen⟩ := hregen ((Vector.replicate 312 0).set 1 1)
    exact ⟨A, hA, hregen.of_word_one⟩
  case last =>
    obtain ⟨A, hA, hregen⟩ := hregen ((Vector.replicate 312 0).set 311 1)
    exact ⟨A, hA, hregen.of_word_last⟩
  case first =>
    obtain ⟨A, hA, hregen⟩ := hregen ((Vector.replicate 312 0).set 0 0x8000000000000000)
    exact ⟨A, hA, hregen.of_word_zero⟩

/-- Settles O45: the refill leaves the last word of the corner case under the block's own value. -/
theorem eitherReadingRuns : Obligations.EitherReadingRuns := by
  intro s hfault hvalid hge hS
  have hlast : ∀ src : WrapBSource, ∃ t, exec .next { s with wrapBSource := src } = .next t ∧
      t.wrapBSource = src ∧ t.S[311] = if src = .self then 0xb5026f5aa96619e8 else 1 := by
    intro src
    obtain ⟨t, ht, hwrap, hregen⟩ :=
      exec_next_of_refill (s := { s with wrapBSource := src }) hfault hvalid hge
    rw [hS] at hregen
    obtain ⟨-, -, hword, -⟩ := hregen.of_word_last
    exact ⟨t, ht, hwrap, hword⟩
  exact ⟨hlast .self, hlast .state0⟩

end Sys2Proof.Machine

/-! PROOF. Tempering is a bijection: each of its four steps adds to a word a linear image of it that has no fixed
word but 0 (spec/42_next.md R104, R105). -/

namespace Sys2Proof.Machine

/-- A mask is linear. -/
theorem xor_and_mask (a b m : Word) : (a ^^^ b) &&& m = (a &&& m) ^^^ (b &&& m) := by
  apply BitVec.eq_of_getLsbD_eq
  intro i _
  simp only [BitVec.getLsbD_and, BitVec.getLsbD_xor, Bool.and_xor_distrib_right]

/-- Cancelling the outer words of two pairs with equal sums. -/
theorem xor_eq_xor_of_xor_eq_xor {a b c d : Word} (h : a ^^^ c = b ^^^ d) : a ^^^ b = c ^^^ d := by
  calc a ^^^ b = (a ^^^ c) ^^^ (c ^^^ b) := by
        rw [BitVec.xor_assoc, ← BitVec.xor_assoc c, BitVec.xor_self, BitVec.zero_xor]
    _ = (d ^^^ b) ^^^ (b ^^^ c) := by rw [h, BitVec.xor_comm b d, BitVec.xor_comm c b]
    _ = c ^^^ d := by
        rw [BitVec.xor_assoc, ← BitVec.xor_assoc b, BitVec.xor_self, BitVec.zero_xor, BitVec.xor_comm]

/-- Two words with one image under such a step differ by a fixed word of the linear part. -/
theorem injective_xor_of_linear {f : Word → Word} (hlinear : ∀ a b, f (a ^^^ b) = f a ^^^ f b)
    (hfixed : ∀ d, d = f d → d = 0) : Function.Injective fun r => r ^^^ f r := by
  intro a b hab
  have hdiff : a ^^^ b = f (a ^^^ b) := by rw [hlinear, xor_eq_xor_of_xor_eq_xor hab]
  exact BitVec.xor_eq_zero_iff.1 (hfixed _ hdiff)

/-- A step with a masked right shift (T1, T4). -/
theorem injective_xor_ushiftRight {k : Nat} (hk : 0 < k) (m : Word) :
    Function.Injective fun r : Word => r ^^^ ((r >>> k) &&& m) :=
  injective_xor_of_linear (fun a b => by rw [BitVec.ushiftRight_xor_distrib, xor_and_mask])
    fun _ => eq_zero_of_eq_ushiftRight hk

/-- A step with a masked left shift (T2, T3). -/
theorem injective_xor_shiftLeft {k : Nat} (hk : 0 < k) (m : Word) :
    Function.Injective fun r : Word => r ^^^ ((r <<< k) &&& m) :=
  injective_xor_of_linear (fun a b => by rw [BitVec.shiftLeft_xor_distrib, xor_and_mask])
    fun _ => eq_zero_of_eq_shiftLeft hk

/-- T4 has no mask: it keeps every bit that it shifts. -/
theorem temper4_eq (r : Word) : temper4 r = r ^^^ ((r >>> 43) &&& BitVec.allOnes 64) := by
  rw [BitVec.and_allOnes, temper4]

theorem temper_injective : Function.Injective temper := by
  have h1 : Function.Injective temper1 := injective_xor_ushiftRight (by decide) _
  have h2 : Function.Injective temper2 := injective_xor_shiftLeft (by decide) _
  have h3 : Function.Injective temper3 := injective_xor_shiftLeft (by decide) _
  have h4 : Function.Injective temper4 := by
    rw [funext temper4_eq]
    exact injective_xor_ushiftRight (by decide) _
  exact h4.comp (h3.comp (h2.comp h1))

/-- Settles O33: on the finite set of words an injective function is bijective. -/
theorem temperIsBijective : Obligations.TemperIsBijective :=
  ⟨Finite.injective_iff_bijective.1 temper_injective, by decide⟩

end Sys2Proof.Machine

/-! PROOF. Whole runs of `NEXT`: where a run stands in the sequence of epochs, the output sequence, and the outputs
that two blocks with different `WRAP_B_SOURCE` have in common (spec/42_next.md R109, R110, R112). -/

namespace Sys2Proof.Machine

/-! ### The epochs (R109) -/

theorem epochArray_succ {src : WrapBSource} {E₀ S A : StateArray} {j : Nat}
    (hS : epochArray src E₀ j = some S) (hA : regenWith src S = some A) :
    epochArray src E₀ (j + 1) = some A := by
  rw [epochArray, hS, Option.bind_some, hA]

/-- The block after `n` commands `NEXT` on a fresh array `E₀`: its array is the epoch it has reached, its cursor
the place in it. Before the first `NEXT` epoch 0 counts as read to its end. -/
structure Generated (src : WrapBSource) (E₀ : StateArray) (n : Nat) (s : State) : Prop where
  fault : s.fault = false
  valid : s.valid = true
  cause : s.cause = .none
  wrapBSource : s.wrapBSource = src
  epoch : epochArray src E₀ ((n + 311) / 312) = some s.S
  cursor : s.cursor.toNat = (n + 311) % 312 + 1

/-- The answer to `NEXT` number `n`: word `n mod N` of the epoch that the block holds then. -/
def Answered (n : Nat) (t : State) : Prop :=
  t.response = some ⟨0x01#8, some (temper (t.S[n % 312]'(Nat.mod_lt _ (by decide))))⟩

theorem respond_answer {s : State} (hfault : s.fault = false) (hvalid : s.valid = true)
    (hcause : s.cause = .none) (d : Word) :
    (State.respond (some d) s).response = some ⟨0x01#8, some d⟩ := by
  rw [State.respond_response, State.status, hfault, hvalid, hcause, statusByte_initialised]

section
variable {src : WrapBSource} {E₀ : StateArray} {n : Nat} {s : State} {rest : List HostEvent}

/-- The host's side of the state says nothing of the sequence. -/
theorem Generated.with_host (h : Generated src E₀ n s) (inputs : List HostEvent) (response : Option Response) :
    Generated src E₀ n { s with inputs := inputs, response := response } :=
  { h with }

/-- One `NEXT` goes one place on, into the next epoch at the end of the array. -/
theorem Generated.next (h : Generated src E₀ n s) :
    ∃ t, exec .next s = .next t ∧ Generated src E₀ (n + 1) t ∧ Answered n t := by
  obtain ⟨hfault, hvalid, hcause, hwrap, hepoch, hcursor⟩ := h
  rw [exec_next_of_running hfault]
  refine ⟨_, rfl, ?_⟩
  rcases Nat.lt_or_ge s.cursor.toNat 312 with hlt | hge
  · have hplace : s.cursor.toNat = n % 312 := by omega
    rw [produceNext_of_lt hvalid hlt]
    refine ⟨⟨hfault, hvalid, hcause, hwrap, ?epoch, ?cursor⟩, ?answer⟩
    case epoch => rwa [show (n + 1 + 311) / 312 = (n + 311) / 312 by omega]
    case cursor =>
      rw [State.respond_cursor, toNat_cursor_succ hlt]
      omega
    case answer =>
      simp only [Answered, ← hplace]
      exact respond_answer hfault hvalid hcause _
  · have hplace : n % 312 = 0 := by omega
    obtain ⟨A, hA⟩ := exists_regenWith_eq s.wrapBSource s.S
    rw [produceNext_of_ge hvalid hge hA]
    refine ⟨⟨hfault, hvalid, hcause, hwrap, ?epoch, ?cursor⟩, ?answer⟩
    case epoch =>
      rw [show (n + 1 + 311) / 312 = (n + 311) / 312 + 1 by omega]
      exact epochArray_succ hepoch (hwrap ▸ hA)
    case cursor => exact (by omega : 1 = (n + 1 + 311) % 312 + 1)
    case answer =>
      simp only [Answered, hplace]
      exact respond_answer hfault hvalid hcause _

/-! ### The host's script (R63) -/

theorem hostScript_cons (w : CommandWord) (ws : List CommandWord) :
    hostScript (w :: ws) = .command w :: .takeResponse :: hostScript ws := rfl

/-- The step on an offered `NEXT`. -/
theorem Generated.step_next (h : Generated src E₀ n s) (hin : s.inputs = .command (encode .next) :: rest)
    (hresp : s.response = none) :
    ∃ t, step s = .next t ∧ Generated src E₀ (n + 1) t ∧ Answered n t ∧ t.inputs = rest := by
  obtain ⟨t, ht, hgen, hanswer⟩ := (h.with_host rest s.response).next
  refine ⟨t, ?_, hgen, hanswer, (performs_of_exec_eq ht).inputs⟩
  rw [step_command hin hresp, performWord_of_command (decode_encode _)]
  exact ht

/-- A step whose response the host takes next. -/
theorem run_of_step_take (k : Nat) {t : State} (hstep : step s = .next t)
    (hin : t.inputs = .takeResponse :: rest) :
    Sys2Proof.core.run (k + 2) s = Sys2Proof.core.run k { t with inputs := rest, response := none } := by
  rw [run_succ_of_next _ hstep, run_succ_of_next _ (step_takeResponse hin)]

/-- The last answer of `k + 1` commands `NEXT`, each response but it being taken. -/
theorem Generated.run_nexts (k : Nat) (h : Generated src E₀ n s) (hresp : s.response = none)
    (hin : s.inputs = hostScript (List.replicate (k + 1) (encode .next)) ++ rest) :
    ∃ t, Sys2Proof.core.run (2 * k + 1) s = .next t ∧ Generated src E₀ (n + k + 1) t ∧
      Answered (n + k) t := by
  induction k generalizing n s with
  | zero =>
    obtain ⟨t, ht, hgen, hanswer, -⟩ := h.step_next hin hresp
    exact ⟨t, run_succ_of_next 0 ht, hgen, hanswer⟩
  | succ k ih =>
    rw [List.replicate_succ, hostScript_cons] at hin
    obtain ⟨t, ht, hgen, -, htake⟩ := h.step_next hin hresp
    obtain ⟨u, hu, hgenu, hansweru⟩ := ih (hgen.with_host _ none) rfl rfl
    refine ⟨u, (run_of_step_take (2 * k + 1) ht htake).trans hu, ?_, ?_⟩
    · rwa [show n + (k + 1) + 1 = n + 1 + k + 1 by omega]
    · rwa [show n + (k + 1) = n + 1 + k by omega]

/-- R109: what an `INIT` leaves is epoch 0, read to its end. -/
theorem generated_initialise (hfault : s.fault = false) (hcause : s.cause = .none) (seed y : Word) :
    Generated s.wrapBSource (seedArray (seed ^^^ y)) 0 (initialise seed y s) :=
  ⟨hfault, rfl, hcause, rfl, rfl, rfl⟩

end

/-! ### Two blocks side by side (R112) -/

/-- Two initialised blocks that differ in the parameter and the last word alone. -/
structure SameBelowLast (s t : State) : Prop where
  fault : s.fault = false
  valid : s.valid = true
  self : s.wrapBSource = .self
  eq : t = { s with S := t.S, wrapBSource := .state0 }
  words : ∀ (j : Nat) (h : j < 311), s.S[j] = t.S[j]

/-- A `NEXT` that refills makes two blocks that differ in the parameter differ in the last word besides. -/
theorem next_of_refill_sameBelowLast {s : State} (hfault : s.fault = false) (hvalid : s.valid = true)
    (hself : s.wrapBSource = .self) (hge : 312 ≤ s.cursor.toNat) :
    ∃ s' t', exec .next s = .next s' ∧ exec .next { s with wrapBSource := .state0 } = .next t' ∧
      SameBelowLast s' t' ∧ s'.cursor.toNat = 1 := by
  obtain ⟨A, hA, hregenA⟩ := exists_regenerated s.wrapBSource s.S
  obtain ⟨B, hB, hregenB⟩ := exists_regenerated .state0 s.S
  have hwords := hregenA.eq_below_last hregenB
  rw [exec_next_of_running hfault, exec_next_of_running (s := { s with wrapBSource := .state0 }) hfault,
    produceNext_of_ge hvalid hge hA,
    produceNext_of_ge (s := { s with wrapBSource := .state0 }) hvalid hge hB, hwords 0 (by decide)]
  exact ⟨_, _, rfl, rfl, ⟨hfault, hvalid, hself, rfl, hwords⟩, rfl⟩

/-- A `NEXT` below the last word reads the same word in both. -/
theorem SameBelowLast.next {s t : State} (h : SameBelowLast s t) (hlt : s.cursor.toNat < 311) :
    ∃ s' t', exec .next s = .next s' ∧ exec .next t = .next t' ∧ SameBelowLast s' t' ∧
      s'.cursor.toNat = s.cursor.toNat + 1 := by
  obtain ⟨hfault, hvalid, hself, heq, hwords⟩ := h
  have hlt' : s.cursor.toNat < 312 := by omega
  rw [heq, exec_next_of_running hfault,
    exec_next_of_running (s := { s with S := t.S, wrapBSource := .state0 }) hfault,
    produceNext_of_lt hvalid hlt',
    produceNext_of_lt (s := { s with S := t.S, wrapBSource := .state0 }) hvalid hlt', hwords _ hlt]
  exact ⟨_, _, rfl, rfl, ⟨hfault, hvalid, hself, rfl, hwords⟩, toNat_cursor_succ hlt'⟩

theorem afterNexts_succ {s t : State} (k : Nat) (h : exec .next s = .next t) :
    afterNexts (k + 1) s = afterNexts k t := by
  simp only [afterNexts, h]

/-- So do all commands `NEXT` up to the last word. -/
theorem SameBelowLast.afterNexts (k : Nat) {s t : State} (h : SameBelowLast s t)
    (hk : s.cursor.toNat + k ≤ 311) :
    ∃ s' t', Machine.afterNexts k s = .next s' ∧ Machine.afterNexts k t = .next t' ∧ SameBelowLast s' t' := by
  induction k generalizing s t with
  | zero => exact ⟨s, t, rfl, rfl, h⟩
  | succ k ih =>
    obtain ⟨s₁, t₁, hs, ht, h₁, hcursor⟩ := h.next (by omega)
    obtain ⟨s', t', hs', ht', h'⟩ := ih h₁ (by omega)
    exact ⟨s', t', (afterNexts_succ k hs).trans hs', (afterNexts_succ k ht).trans ht', h'⟩

/-! ### The statements -/

/-- Settles O42: the place in the sequence after the `INIT`, moved on by each `NEXT` of the script. -/
theorem outputSequence : Obligations.OutputSequence := by
  intro seed y k rest s hfault hcause hresp hin
  rw [hostScript_cons] at hin
  have hgen := generated_initialise hfault hcause seed y
  obtain ⟨t, ht, hgent, hanswer⟩ :=
    (hgen.with_host (hostScript (List.replicate (k + 1) (encode .next)) ++ rest) none).run_nexts k rfl rfl
  rw [Nat.zero_add] at hgent hanswer
  have hepoch : (k + 1 + 311) / 312 = k / 312 + 1 := by omega
  refine ⟨initialise seed y s, t, t.S, exec_init_of_running hfault seed y, hepoch ▸ hgent.epoch, ?run, rfl, ?cursor,
    hanswer⟩
  case run => exact (run_of_step_take (2 * k + 1) (step_encode_init hin hresp hfault) rfl).trans ht
  case cursor =>
    rw [hgent.cursor]
    omega

/-- Settles O43: the first `NEXT` refills, and the others read below the word in which the arrays differ. -/
theorem firstEpochSameUnderBothReadings : Obligations.FirstEpochSameUnderBothReadings := by
  intro seed y s k hfault hk
  have hinit : ∀ src : WrapBSource, exec (.init seed y) { s with wrapBSource := src }
      = .next (initialise seed y { s with wrapBSource := src }) := fun src =>
    exec_init_of_running (s := { s with wrapBSource := src }) hfault seed y
  obtain ⟨s₁, t₁, hs₁, ht₁, h₁, hcursor⟩ :=
    next_of_refill_sameBelowLast (s := initialise seed y { s with wrapBSource := .self }) hfault rfl rfl
      (Nat.le_refl 312)
  obtain ⟨t, t', ht, ht', h⟩ := h₁.afterNexts k (by omega)
  obtain ⟨-, -, hself, heq, -⟩ := h
  refine ⟨_, _, t, t', hinit .self, hinit .state0,
    (afterNexts_succ k hs₁).trans ht, (afterNexts_succ k ht₁).trans ht', hself, ?_, ?_, ?_⟩
  all_goals rw [heq]

end Sys2Proof.Machine
